-- ==== Sys2Proof/Word.lean ====
section
/-! DEFINITION. The words the block exchanges and the groups of four it works on (00_scope.md R6, R7). -/

namespace Sys2Proof

/-- A packed hand on `hand_i`, or a hand value on `value_o` (R6: `HAND_W` = `VALUE_W` = 64). -/
abbrev Word := BitVec 64

/-- A rank mask over the lane bit positions 13..0 (R10): rank ρ at bit ρ - 1, the Ace's duplicate at bit 0. -/
abbrev Mask := BitVec 14

/-- The 52-bit card mask the Encoding Adapter takes (R60). -/
abbrev CardMask := BitVec 52

/-- A 4-bit count, or a 4-bit category code (R27: `N`, `LC[s]`, `cat`). -/
abbrev Nibble := BitVec 4

/-- A suit index (R10): 0..3. -/
abbrev Suit := Fin 4

/-- One value for each of the four suits, the `x[0..3]` of the spec's pseudocode. -/
structure PerSuit (α : Type) where
  s0 : α
  s1 : α
  s2 : α
  s3 : α
deriving DecidableEq, Repr

/-- The component of suit `s`, the spec's `x[s]`. -/
def PerSuit.get {α : Type} (x : PerSuit α) (s : Suit) : α :=
  match s with
  | 0 => x.s0
  | 1 => x.s1
  | 2 => x.s2
  | 3 => x.s3

/-- Four parallel copies, the spec's `for s in 0..3` (R9). -/
def PerSuit.ofFn {α : Type} (f : Suit → α) : PerSuit α := ⟨f 0, f 1, f 2, f 3⟩

/-- The same function in every lane. -/
def PerSuit.map {α β : Type} (f : α → β) (x : PerSuit α) : PerSuit β := ⟨f x.s0, f x.s1, f x.s2, f x.s3⟩

/-- Does the test hold in every lane? -/
def PerSuit.all {α : Type} (p : α → Bool) (x : PerSuit α) : Bool := p x.s0 && p x.s1 && p x.s2 && p x.s3

end Sys2Proof
end

