-- ==== Sys2Proof/Syntax.lean ====
section
/-! DEFINITION. The operations of spec/opcode_table.json: one constructor of `Op` and one of `Instr` per row. The block
has no opcode field (R70): an instruction's bits are its operands, and its row is named beside them. -/

namespace Sys2Proof

/-- The rows of the opcode table, by name (R70). Only `evaluate` is selectable on the block; `pack` is the environment's
adapter; the others are functions inside the block, which this model can also exercise on their own
(DESIGN CHOICE, log 2). -/
inductive Op where
  | evaluate
  | pack
  | bpmLanes
  | bpmPresence
  | bpmQuads
  | bpmDistinct
  | bpmSuitcount
  | bpmStraight
  | bpmSfdetect
  | bpmStdetect
  | bpmTally
  | reHibit
  | reTopk
  | rePayload
  | ctTag
  | ctCompose
deriving DecidableEq, Repr

/-- An operation with its operands, in the widths of the opcode table. -/
inductive Instr where
  /-- EVALUATE (R190): drive `hand_i`; with a wrapper, one rising edge of `clk`. -/
  | evaluate (hand : Word)
  /-- PACK (R100): the environment's Encoding Adapter. -/
  | pack (mask : CardMask)
  /-- BPM_LANES (R120): split the hand into lanes. -/
  | bpmLanes (hand : Word)
  /-- BPM_PRESENCE (R121): the rank-presence mask of the lanes `w`. -/
  | bpmPresence (w : PerSuit Mask)
  /-- BPM_QUADS (R122): the quad-rank mask of the lanes `r`. -/
  | bpmQuads (r : PerSuit Mask)
  /-- BPM_DISTINCT (R123): the number of distinct ranks. -/
  | bpmDistinct (present : Mask)
  /-- BPM_SUITCOUNT (R124): cards per suit. -/
  | bpmSuitcount (r : PerSuit Mask)
  /-- BPM_STRAIGHT (R125): the straight detector. -/
  | bpmStraight (m : Mask)
  /-- BPM_SFDETECT (R126): straight flushes. -/
  | bpmSfdetect (w : PerSuit Mask)
  /-- BPM_STDETECT (R127): plain straights. -/
  | bpmStdetect (or14 : Mask)
  /-- BPM_TALLY (R128): occurrence count per rank. -/
  | bpmTally (r : PerSuit Mask)
  /-- RE_HIBIT (R150): the highest rank of a mask. -/
  | reHibit (m : Mask)
  /-- RE_TOPK (R151): the `k` highest ranks of a mask. -/
  | reTopk (m : Mask) (k : BitVec 3)
  /-- RE_PAYLOAD (R152): payload assembly. -/
  | rePayload (p k : Mask)
  /-- CT_TAG (R170): the category tag. -/
  | ctTag (cat : Nibble)
  /-- CT_COMPOSE (R171): the hand value. -/
  | ctCompose (cat : Nibble) (p k : Mask)
deriving DecidableEq, Repr

/-- The opcode-table row of an instruction. -/
def Instr.op : Instr → Op
  | .evaluate _ => .evaluate
  | .pack _ => .pack
  | .bpmLanes _ => .bpmLanes
  | .bpmPresence _ => .bpmPresence
  | .bpmQuads _ => .bpmQuads
  | .bpmDistinct _ => .bpmDistinct
  | .bpmSuitcount _ => .bpmSuitcount
  | .bpmStraight _ => .bpmStraight
  | .bpmSfdetect _ => .bpmSfdetect
  | .bpmStdetect _ => .bpmStdetect
  | .bpmTally _ => .bpmTally
  | .reHibit _ => .reHibit
  | .reTopk _ _ => .reTopk
  | .rePayload _ _ => .rePayload
  | .ctTag _ => .ctTag
  | .ctCompose _ _ _ => .ctCompose

/-- A transaction the environment presents (R73, D26): the row, its bits, and the levels of the wrapper's input ports
that go with an EVALUATE (R28). `settled` says that `hand_i` is held for `T_settle` before `value_o` is sampled (R264).
The ports are touched by an EVALUATE only (log 1, log 2). -/
structure Transaction where
  rst : Bool
  inValid : Bool
  settled : Bool
  op : Op
  nbits : Nat
  bits : Nat
deriving DecidableEq, Repr

end Sys2Proof
end

