-- ==== Sys2Proof/Decode.lean ====
section
/-! DEFINITION. Decoding and encoding of a transaction's bits, row by row, from the "encoding" and "fields" of
spec/opcode_table.json. The block decodes nothing (R70): the row is named, and its bits are the operands. -/

namespace Sys2Proof

/-- Why a transaction's bits are no instruction. -/
inductive DecodeError where
  /-- The word does not have the row's width (opcode_table.json; log 12). -/
  | wrongWidth (op : Op) (nbits : Nat)
  /-- Bits are set above the row's width. -/
  | bitsAboveWidth (op : Op)
deriving DecidableEq, Repr

/-- How many bits the opcode table gives the row's "encoding". -/
def Op.width : Op → Nat
  | .evaluate => 64
  | .pack => 52
  | .bpmLanes => 64
  | .bpmPresence => 56
  | .bpmQuads => 56
  | .bpmDistinct => 14
  | .bpmSuitcount => 56
  | .bpmStraight => 14
  | .bpmSfdetect => 56
  | .bpmStdetect => 14
  | .bpmTally => 56
  | .reHibit => 14
  | .reTopk => 17
  | .rePayload => 28
  | .ctTag => 4
  | .ctCompose => 32

/-- The row's width in whole bytes, counted in bits. -/
def Op.byteWidth (op : Op) : Nat := (op.width + 7) / 8 * 8

/-- The carriers a row's bits may come in: exactly the row's width, the same in whole bytes, and for PACK also a 64-bit
word (D15) (DESIGN CHOICE, log 12). -/
def Op.acceptsWidth (op : Op) (nbits : Nat) : Bool :=
  nbits == op.width || nbits == op.byteWidth || (op == .pack && nbits == 64)

/-- Do the bits lie within the carrier, and, for every row but PACK, within the row? PACK does not read the bits above
51 of its carrier (R100, D15). -/
def Op.bitsFit (op : Op) (nbits bits : Nat) : Bool :=
  bits < 2 ^ nbits && (op == .pack || bits < 2 ^ op.width)

/-- Four 14-bit lanes as one 56-bit operand, lane `s` at bits 14s+13..14s (DEDUCED from the lane order of R61, log 11). -/
def packLanes (x : PerSuit Mask) : BitVec 56 := x.s3 ++ x.s2 ++ x.s1 ++ x.s0

/-- The four 14-bit lanes of a 56-bit operand. -/
def unpackLanes (v : BitVec 56) : PerSuit Mask := PerSuit.ofFn fun s => v.extractLsb' (14 * s.val) 14

/-- The row's operand fields, cut out of its bits: the "source_fields" of the opcode table. -/
def operandsOf (op : Op) (bits : Nat) : Instr :=
  match op with
  | .evaluate => .evaluate (BitVec.ofNat 64 bits)
  | .pack => .pack (BitVec.ofNat 52 bits)
  | .bpmLanes => .bpmLanes (BitVec.ofNat 64 bits)
  | .bpmPresence => .bpmPresence (unpackLanes (BitVec.ofNat 56 bits))
  | .bpmQuads => .bpmQuads (unpackLanes (BitVec.ofNat 56 bits))
  | .bpmDistinct => .bpmDistinct (BitVec.ofNat 14 bits)
  | .bpmSuitcount => .bpmSuitcount (unpackLanes (BitVec.ofNat 56 bits))
  | .bpmStraight => .bpmStraight (BitVec.ofNat 14 bits)
  | .bpmSfdetect => .bpmSfdetect (unpackLanes (BitVec.ofNat 56 bits))
  | .bpmStdetect => .bpmStdetect (BitVec.ofNat 14 bits)
  | .bpmTally => .bpmTally (unpackLanes (BitVec.ofNat 56 bits))
  | .reHibit => .reHibit (BitVec.ofNat 14 bits)
  | .reTopk => .reTopk ((BitVec.ofNat 17 bits).extractLsb' 3 14) ((BitVec.ofNat 17 bits).extractLsb' 0 3)
  | .rePayload => .rePayload ((BitVec.ofNat 28 bits).extractLsb' 14 14) ((BitVec.ofNat 28 bits).extractLsb' 0 14)
  | .ctTag => .ctTag (BitVec.ofNat 4 bits)
  | .ctCompose =>
    .ctCompose ((BitVec.ofNat 32 bits).extractLsb' 28 4) ((BitVec.ofNat 32 bits).extractLsb' 14 14)
      ((BitVec.ofNat 32 bits).extractLsb' 0 14)

/-- The instruction of a row that `nbits` bits carry, or the reason there is none: every operand value of the row's width
is an instruction. -/
def decode (op : Op) (nbits bits : Nat) : Except DecodeError Instr :=
  if op.acceptsWidth nbits then
    if op.bitsFit nbits bits then
      .ok (operandsOf op bits)
    else .error (.bitsAboveWidth op)
  else .error (.wrongWidth op nbits)

/-- The bits of an instruction's operands, in its row's "encoding"; together with `Instr.op` they are the instruction. -/
def encode : Instr → Nat
  | .evaluate hand => hand.toNat
  | .pack mask => mask.toNat
  | .bpmLanes hand => hand.toNat
  | .bpmPresence w => (packLanes w).toNat
  | .bpmQuads r => (packLanes r).toNat
  | .bpmDistinct present => present.toNat
  | .bpmSuitcount r => (packLanes r).toNat
  | .bpmStraight m => m.toNat
  | .bpmSfdetect w => (packLanes w).toNat
  | .bpmStdetect or14 => or14.toNat
  | .bpmTally r => (packLanes r).toNat
  | .reHibit m => m.toNat
  | .reTopk m k => (m ++ k).toNat
  | .rePayload p k => (p ++ k).toNat
  | .ctTag cat => cat.toNat
  | .ctCompose cat p k => (cat ++ p ++ k).toNat

/-- The row a bare word of `nbits` bits is read as, since the table's rows carry no fixed bits: for each width one row,
the selectable one or the adapter first, then the one whose fields the table numbers (DESIGN CHOICE, log 12). -/
def opOfWidth (nbits : Nat) : Option Op :=
  match nbits with
  | 64 => some .evaluate
  | 52 | 56 => some .pack
  | 14 | 16 => some .reHibit
  | 17 | 24 => some .reTopk
  | 28 => some .rePayload
  | 32 => some .ctCompose
  | 4 | 8 => some .ctTag
  | _ => none

/-- The instruction the decoder reads from a bare word. -/
def decodeTableWord (nbits w : Nat) : Option Instr :=
  match opOfWidth nbits with
  | none => none
  | some op =>
    match decode op nbits w with
    | .ok i => some i
    | .error _ => none

end Sys2Proof
end

