-- ==== Sys2Proof/Config.lean ====
section
/-! DEFINITION. What an implementation of the block fixes, and the values the spec leaves open (R6; 92_eei_decisions.md).
A free value is an opaque constant: it has no body, so a proof about it holds for every value. -/

namespace Sys2Proof.Config

/-- `PIPELINE_LATENCY` (R6, D3): OPEN, default 0, the combinational block. Only `State.reset` uses it; the wrapper is
modelled for every latency, which is the length of the state's stage list (DESIGN CHOICE, log 8). -/
def pipelineLatency : Nat := 0

/-- `OUT_OF_CONTRACT_VALUE` (R6, R204, D10): any 64-bit value. It is a function of the hand, so that `value_o` still
depends on `hand_i` alone (R207) and repeats for a repeated word (R45) (DEDUCED, log 5). -/
opaque outOfContractValue : Word → Word

/-- The `n`-th fresh 64-bit value drawn: a stage field after reset or power-up, `value_o` while `out_valid` = 0 (I7), and
`value_o` before `hand_i` has settled (I8) (log 7, log 9, log 10). -/
opaque freeWord : Nat → Word

/-- The `n`-th fresh bit drawn: a stage's valid bit at power-up (R262, I7) (log 9). -/
opaque freeBit : Nat → Bool

/-- The category net `cat` on a hand that no rule R193 to R202 gives a category to, within the 0..8 of R27 (log 6). -/
opaque freeCategory : Word → Fin 9

/-- The net `P` on such a hand (log 6). -/
opaque freePrimary : Word → Mask

/-- The net `K` on such a hand (log 6). -/
opaque freeKickers : Word → Mask

/-- `N` from a BPM_DISTINCT performed on a mask that has the ace duplicate's bit 0 set: the formula of R123 would count it,
and the rule says it is not counted; within the 0..13 of R123 (log 20). -/
opaque freeDistinct : Mask → Fin 14

/-- `LC[s]` from a BPM_SUITCOUNT performed on a lane that has bit 0 set: an Ace "counts once" (R124); within the 0..13 of
that rule (log 20). -/
opaque freeSuitcount : Suit → Mask → Fin 14

/-- Bit 0 of `QUADS` from a BPM_QUADS performed on four lanes that all have bit 0 set: the formula of R122 gives 1 and R27
says that bit is always 0 (log 20). -/
opaque freeQuadsBit : PerSuit Mask → Bool

/-- The result of a RE_TOPK performed with a count above 5 (log 20). -/
opaque freeTopk : Mask → BitVec 3 → Mask

/-- `TAG` for a category code above 8 (log 20). -/
opaque freeTag : Nibble → Word

end Sys2Proof.Config
end

