-- ==== Sys2Proof/Machine/Nets.lean ====
section
/-! DEFINITION. The internal nets of R27 as plain data, grouped by the sub-block that drives them, and the names of the
categories and of the input classes. -/

namespace Sys2Proof.Machine

/-- The nets the bit_pattern_matcher drives (R27), under the spec's names. -/
structure MatcherNets where
  w : PerSuit Mask
  r : PerSuit Mask
  or14 : Mask
  present : Mask
  quads : Mask
  n : Nibble
  lc : PerSuit Nibble
  sfm : Mask
  stm : Mask
  singles : Mask
  pairs : Mask
  trips : Mask
deriving DecidableEq, Repr

/-- The nets of the rank_encoder and the category_tagger (R27: `P`, `K`, `cat`, `TAG`), with the payload of R152 and the
composed value of R171. -/
structure ValueNets where
  cat : Nibble
  p : Mask
  k : Mask
  tag : Word
  payload : BitVec 32
  value : Word
deriving DecidableEq, Repr

/-- The nine hand classes, in rising order (R66). -/
inductive Category where
  | highCard
  | onePair
  | twoPair
  | threeOfAKind
  | straight
  | flush
  | fullHouse
  | fourOfAKind
  | straightFlush
deriving DecidableEq, Repr

/-- What a category rule R193 to R202 supplies: the category and the payload's two rank masks. -/
structure Selection where
  cat : Category
  p : Mask
  k : Mask
deriving DecidableEq, Repr

/-- The three result masks of BPM_TALLY (R128). -/
structure Tally where
  singles : Mask
  pairs : Mask
  trips : Mask
deriving DecidableEq, Repr

/-- The three classes every 64-bit input falls into (R71). -/
inductive InputClass where
  | inContract
  | sentinel
  | unspecified
deriving DecidableEq, Repr

end Sys2Proof.Machine
end

