-- ==== Sys2Proof/Machine/Operands.lean ====
section
/-! DEFINITION. The formats of the words the block takes (30_encoding.md sections 1 and 2): the card mask, the packed
hand, its lanes, and which packed hands are well-formed. -/

namespace Sys2Proof.Machine

/-- `LANE_RANKS` (R63): lane bits 13..1, the real ranks. -/
def laneRanks : Mask := 0x3FFE

/-- `HAND_RANKS` (R63): `LANE_RANKS` in all four lanes. -/
def handRanks : Word := 0x3FFE_3FFE_3FFE_3FFE

/-- `HAND_DUP` (R63): the ace duplicate in all four lanes. -/
def handDup : Word := 0x0001_0001_0001_0001

/-- `HAND_UNUSED` (R63): lane bits 15 and 14 in all four lanes. -/
def handUnused : Word := 0xC000_C000_C000_C000

/-- The number of 1 bits (R8). -/
def popcount {n : Nat} (v : BitVec n) : Nat := (List.range n).countP fun i => v.getLsbD i

/-- The bit of the card mask that stands for the card of rank `rank` (2..14) and suit `s` (R60). -/
def cardBit (rank : Nat) (s : Suit) : Nat := 13 * s.val + (rank - 2)

/-- The bit of the packed hand that stands for the card of rank `rank` (2..14) and suit `s` (R62). -/
def handBit (rank : Nat) (s : Suit) : Nat := 16 * s.val + (rank - 1)

/-- The 13-bit chunk of suit `s` in a card mask (R60): `m[13s+12 : 13s]`. -/
def chunk (m : CardMask) (s : Suit) : BitVec 13 := m.extractLsb' (13 * s.val) 13

/-- Bits 13..0 of lane `s` of a packed hand (R61, R120): `hand[16s+13 : 16s]`; bits 15 and 14 are not read (D11). -/
def laneBits (hand : Word) (s : Suit) : Mask := hand.extractLsb' (16 * s.val) 14

/-- Condition (a) of R64: lane bits 14 and 15 are clear. -/
def unusedClear (hand : Word) : Bool := hand &&& handUnused == 0

/-- Condition (b) of R64: in every lane the ace duplicate equals the Ace. -/
def acesAgree (hand : Word) : Bool :=
  (List.finRange 4).all fun s => hand.getLsbD (16 * s.val) == hand.getLsbD (16 * s.val + 13)

/-- The number of cards of a packed hand (R64 (c)): the ace duplicates are not counted. -/
def cardCount (hand : Word) : Nat := popcount (hand &&& handRanks)

/-- `WELL_FORMED(h)` (R64): the packed hand of 5, 6 or 7 distinct cards. -/
def wellFormedHand (hand : Word) : Bool :=
  unusedClear hand && acesAgree hand && (cardCount hand == 5 || cardCount hand == 6 || cardCount hand == 7)

end Sys2Proof.Machine
end

