-- ==== Sys2Proof/Machine/Flags.lean ====
section
/-! DEFINITION. The block keeps no flags (R22): what a flag would say stands inside `value_o`. This file holds that
format: the category code and tag, the payload, the composed value, the sentinel, and how a consumer reads them back. -/

namespace Sys2Proof.Machine

/-- The 4-bit code of a category (R66, D5). -/
def Category.code : Category → Nibble
  | .highCard => 0
  | .onePair => 1
  | .twoPair => 2
  | .threeOfAKind => 3
  | .straight => 4
  | .flush => 5
  | .fullHouse => 6
  | .fourOfAKind => 7
  | .straightFlush => 8

/-- The sentinel word (R67, R191): all ones. -/
def sentinel : Word := 0xFFFF_FFFF_FFFF_FFFF

/-- `TAG(cat)` (R170): the one-hot category tag, bit 32 + cat. -/
def tagOf (cat : Nibble) : Word := (1 : Word) <<< (32 + cat.toNat)

/-- `PAYLOAD(P, K)` (R152): primary ranks above kickers, 16 bits apart. -/
def payloadOf (p k : Mask) : BitVec 32 := (p.setWidth 32 <<< 16) ||| k.setWidth 32

/-- `VAL(cat, P, K)` (R171): tag and payload joined. -/
def valueOf (cat : Nibble) (p k : Mask) : Word := tagOf cat ||| (payloadOf p k).setWidth 64

/-- The value of a selected category rule. -/
def Selection.value (sel : Selection) : Word := valueOf sel.cat.code sel.p sel.k

/-- Is this value the error indication (R231)? -/
def isSentinel (value : Word) : Bool := value == sentinel

/-- The category code a consumer recovers, `log2(value >> 32)` (R68); meaningful for every value but the sentinel. -/
def categoryCodeOf (value : Word) : Nat := Nat.log2 (value >>> 32).toNat

/-- The field `P` of a hand value, bits 29..16 (R65). -/
def primaryOf (value : Word) : Mask := value.extractLsb' 16 14

/-- The field `K` of a hand value, bits 13..0 (R65). -/
def kickersOf (value : Word) : Mask := value.extractLsb' 0 14

end Sys2Proof.Machine
end

