-- ==== Sys2Proof/WellFormed.lean ====
section
/-! DEFINITION. Which operand values the opcode table and R27 give each row, and the name of what is unusual about the
others. An instruction with such other operands decodes and runs all the same (log 13, log 20): this check says for which
operands the spec states its form. Every 64-bit word is an operand of EVALUATE (R70). -/

namespace Sys2Proof

/-- Why an operand is not of its row's form. -/
inductive Defect where
  /-- A mask of real ranks has bit 0 set; the nets `r[s]` and `PRESENT` have bit 0 always 0 (R27). -/
  | rankBitZero
  /-- The count `k` of RE_TOPK is above 5 (opcode table: "k in 0..5"). -/
  | countAboveFive
  /-- The category code is above 8 (R66: "Codes 9..15 never occur"; opcode table: "0..8"). -/
  | reservedCategory
deriving DecidableEq, Repr

/-- Is bit 0, the ace duplicate's place, clear? The form of the nets `r[s]` and `PRESENT` (R27). -/
def realRanks (m : Mask) : Bool := !m.getLsbD 0

/-- The defect of an instruction's operands, if any. -/
def Instr.defect : Instr → Option Defect
  | .evaluate _ => none
  | .pack _ => none
  | .bpmLanes _ => none
  | .bpmPresence _ => none
  | .bpmQuads r => if r.all realRanks then none else some .rankBitZero
  | .bpmDistinct present => if realRanks present then none else some .rankBitZero
  | .bpmSuitcount r => if r.all realRanks then none else some .rankBitZero
  | .bpmStraight _ => none
  | .bpmSfdetect _ => none
  | .bpmStdetect _ => none
  | .bpmTally r => if r.all realRanks then none else some .rankBitZero
  | .reHibit _ => none
  | .reTopk _ k => if k.toNat ≤ 5 then none else some .countAboveFive
  | .rePayload _ _ => none
  | .ctTag cat => if cat.toNat ≤ 8 then none else some .reservedCategory
  | .ctCompose cat _ _ => if cat.toNat ≤ 8 then none else some .reservedCategory

/-- The operands have the form the row gives them. -/
abbrev Instr.WellFormed (i : Instr) : Prop := i.defect = none

end Sys2Proof
end

