-- ==== Sys2Proof/Machine/Datapath.lean ====
section
/-! DEFINITION. The combinational functions of the block and of its adapter, on words alone: PACK (R100), the
bit_pattern_matcher (R120 to R128), the rank_encoder (R150, R151), the priority chain (R190 to R202) and the value
driven on `value_o` for each class of input (R71). Every instruction's meaning is one line over these. -/

namespace Sys2Proof.Machine

/-! The Encoding Adapter -/

/-- PACK's first step (R100): each 13-bit chunk at the bottom of its 16-bit lane. -/
def spreadChunks (m : CardMask) : Word :=
  ((chunk m 0).setWidth 64) ||| ((chunk m 1).setWidth 64 <<< 16) |||
    ((chunk m 2).setWidth 64 <<< 32) ||| ((chunk m 3).setWidth 64 <<< 48)

/-- PACK (R100): spread, shift left by 1, and copy each lane's Ace to its bit 0. -/
def pack (m : CardMask) : Word :=
  let t1 := spreadChunks m <<< 1
  t1 ||| ((t1 >>> 13) &&& handDup)

/-- The inverse of PACK on its image (R102): lane bits 13..1 back to the suit's chunk. -/
def unpack (hand : Word) : CardMask :=
  (hand.extractLsb' 1 13).setWidth 52 ||| ((hand.extractLsb' 17 13).setWidth 52 <<< 13) |||
    ((hand.extractLsb' 33 13).setWidth 52 <<< 26) ||| ((hand.extractLsb' 49 13).setWidth 52 <<< 39)

/-! The bit_pattern_matcher -/

/-- The lanes `w[s]` (R120): ranks and ace duplicate. -/
def straightLanes (hand : Word) : PerSuit Mask := PerSuit.ofFn (laneBits hand)

/-- The lanes `r[s]` (R120): real ranks only. -/
def rankLanes (hand : Word) : PerSuit Mask := (straightLanes hand).map (· &&& laneRanks)

/-- `OR14` (R121): the union of the lanes. -/
def orLanes (w : PerSuit Mask) : Mask := w.s0 ||| w.s1 ||| w.s2 ||| w.s3

/-- `PRESENT` (R121): the ranks some suit holds, without the ace duplicate. -/
def presentRanks (w : PerSuit Mask) : Mask := orLanes w &&& laneRanks

/-- `QUADS` (R122): the ranks every suit holds. -/
def quadRanks (r : PerSuit Mask) : Mask := r.s0 &&& r.s1 &&& r.s2 &&& r.s3

/-- A population count on a 4-bit net (R123, R124). -/
def countNet (m : Mask) : Nibble := BitVec.ofNat 4 (popcount m)

/-- `STRAIGHT(m)` (R125): bit j set iff bits j-4..j of `m` are all set. -/
def straightMask (m : Mask) : Mask := m &&& (m <<< 1) &&& (m <<< 2) &&& (m <<< 3) &&& (m <<< 4)

/-- `SFM` (R126): the straights of each lane, united. -/
def straightFlushMask (w : PerSuit Mask) : Mask := orLanes (w.map straightMask)

/-- How many of the four lanes hold rank index `j` (R128: `c[j]`). -/
def rankCount (r : PerSuit Mask) (j : Nat) : Nat :=
  (r.s0.getLsbD j).toNat + (r.s1.getLsbD j).toNat + (r.s2.getLsbD j).toNat + (r.s3.getLsbD j).toNat

/-- The rank indices 1..13 that exactly `c` lanes hold (R128); bit 0 is clear. -/
def ranksHeld (r : PerSuit Mask) (c : Nat) : Mask :=
  BitVec.ofFnLE fun j => decide (1 ≤ j.val) && rankCount r j.val == c

/-- `SINGLES`, `PAIRS`, `TRIPS` (R128), in the normative per-rank form. -/
def tallyOf (r : PerSuit Mask) : Tally := ⟨ranksHeld r 1, ranksHeld r 2, ranksHeld r 3⟩

/-- All nets of the bit_pattern_matcher for one input word (R27; R120 to R128). -/
def matcherNets (hand : Word) : MatcherNets where
  w := straightLanes hand
  r := rankLanes hand
  or14 := orLanes (straightLanes hand)
  present := presentRanks (straightLanes hand)
  quads := quadRanks (rankLanes hand)
  n := countNet (presentRanks (straightLanes hand))
  lc := (rankLanes hand).map countNet
  sfm := straightFlushMask (straightLanes hand)
  stm := straightMask (orLanes (straightLanes hand))
  singles := (tallyOf (rankLanes hand)).singles
  pairs := (tallyOf (rankLanes hand)).pairs
  trips := (tallyOf (rankLanes hand)).trips

/-! The rank_encoder -/

/-- The largest index below `bound` whose bit is set, if any. -/
def highestSetBelow (m : Mask) : Nat → Option Nat
  | 0 => none
  | bound + 1 => if m.getLsbD bound then some bound else highestSetBelow m bound

/-- `HIBIT(m)` (R150): the highest set bit alone, or zero. -/
def hibit (m : Mask) : Mask :=
  match highestSetBelow m 14 with
  | none => 0
  | some j => (1 : Mask) <<< j

/-- `TOPK(m, k)` (R151): the `k` highest set bits. -/
def topk (m : Mask) : Nat → Mask
  | 0 => 0
  | k + 1 => hibit m ||| topk (m &&& ~~~hibit m) k

/-! The priority chain -/

/-- The condition of the sentinel (R191): `N < 2` or `N > 7`. -/
def sentinelCondition (n : Nibble) : Bool := decide (n.toNat < 2) || decide (7 < n.toNat)

/-- The first suit, in the order 0..3, that holds five cards or more (R194, D12). -/
def flushSuit (lc : PerSuit Nibble) : Option Suit := (List.finRange 4).find? fun s => decide (5 ≤ (lc.get s).toNat)

/-- The rules behind the five-distinct-ranks gate (R192): R193, R194, R195. -/
def selectFiveRanks (m : MatcherNets) : Option Selection :=
  if m.sfm ≠ 0 then some ⟨.straightFlush, hibit m.sfm, 0⟩
  else
    match flushSuit m.lc with
    | some s => some ⟨.flush, topk (m.r.get s) 5, 0⟩
    | none => if m.stm ≠ 0 then some ⟨.straight, hibit m.stm, 0⟩ else none

/-- The rules that go by occurrence counts, R196 to R202, in R190's order. -/
def selectByCounts (m : MatcherNets) : Selection :=
  if m.quads ≠ 0 then
    ⟨.fourOfAKind, hibit m.quads, hibit (m.present &&& ~~~hibit m.quads)⟩
  else if 2 ≤ popcount m.trips then
    ⟨.fullHouse, hibit m.trips, hibit (m.trips &&& ~~~hibit m.trips)⟩
  else if popcount m.trips = 1 ∧ m.pairs ≠ 0 then
    ⟨.fullHouse, m.trips, hibit m.pairs⟩
  else if popcount m.trips = 1 then
    ⟨.threeOfAKind, m.trips, topk m.singles 2⟩
  else if 2 ≤ popcount m.pairs then
    ⟨.twoPair, topk m.pairs 2, hibit (m.present &&& ~~~topk m.pairs 2)⟩
  else if popcount m.pairs = 1 then
    ⟨.onePair, m.pairs, topk m.singles 3⟩
  else
    ⟨.highCard, topk m.singles 5, 0⟩

/-- The chain after the sentinel test, with the gate of R192. -/
def select (m : MatcherNets) : Selection :=
  if 5 ≤ m.n.toNat then (selectFiveRanks m).getD (selectByCounts m) else selectByCounts m

/-- `CLASSIFY(hand_i)` (R190), the reference datapath, total over all 64-bit words. -/
def classify (hand : Word) : Word :=
  if sentinelCondition (matcherNets hand).n then sentinel else (select (matcherNets hand)).value

/-- The class of an input word (R71). -/
def inputClass (hand : Word) : InputClass :=
  if sentinelCondition (matcherNets hand).n then .sentinel
  else if wellFormedHand hand then .inContract
  else .unspecified

/-- The value the block gives for a hand: exact in contract (R203), the sentinel on the error path (R191), and any value
otherwise (R204). -/
def evaluateWord (hand : Word) : Word :=
  match inputClass hand with
  | .inContract => classify hand
  | .sentinel => sentinel
  | .unspecified => Config.outOfContractValue hand

/-- `TAG`, payload and value nets from `cat`, `P` and `K` (R170, R152, R171). -/
def valueNetsOf (cat : Nibble) (p k : Mask) : ValueNets where
  cat := cat
  p := p
  k := k
  tag := tagOf cat
  payload := payloadOf p k
  value := valueOf cat p k

/-- The nets of the rank_encoder and category_tagger for one input word: those of the selected rule in contract; where
no rule supplies `cat`, `P` and `K` they are free (log 6) and the nets computed from them follow. -/
def valueNets (hand : Word) : ValueNets :=
  match inputClass hand with
  | .inContract =>
    let sel := select (matcherNets hand)
    valueNetsOf sel.cat.code sel.p sel.k
  | _ =>
    valueNetsOf (BitVec.ofNat 4 (Config.freeCategory hand).val) (Config.freePrimary hand) (Config.freeKickers hand)

/-! Functions performed on their own, on any operand: where the spec states no result the one value is free (log 20) -/

/-- `N` of any mask (R123): free where the ace duplicate's bit is set. -/
def distinctNet (present : Mask) : Nibble :=
  if realRanks present then countNet present else BitVec.ofNat 4 (Config.freeDistinct present).val

/-- `LC[q]` of any lane (R124): free where that lane has bit 0 set. -/
def suitcountNet (q : Suit) (lane : Mask) : Nibble :=
  if realRanks lane then countNet lane else BitVec.ofNat 4 (Config.freeSuitcount q lane).val

/-- `LC` of any four lanes (R124). -/
def suitcountNets (r : PerSuit Mask) : PerSuit Nibble := PerSuit.ofFn fun q => suitcountNet q (r.get q)

/-- `QUADS` of any four lanes (R122): only bit 0 is free, and only where all four lanes have it set. -/
def quadsNet (r : PerSuit Mask) : Mask :=
  if realRanks (quadRanks r) then quadRanks r
  else (quadRanks r &&& laneRanks) ||| (BitVec.ofBool (Config.freeQuadsBit r)).setWidth 14

/-- `TOPK(m, k)` for any 3-bit count (R151; opcode table: 0..5): free for 6 and 7. -/
def topkNet (m : Mask) (k : BitVec 3) : Mask :=
  if k.toNat ≤ 5 then topk m k.toNat else Config.freeTopk m k

/-- `TAG(cat)` for any 4-bit code (R170, R66): free for 9 to 15. -/
def tagNet (cat : Nibble) : Word := if cat.toNat ≤ 8 then tagOf cat else Config.freeTag cat

/-- `VAL(cat, P, K)` for any 4-bit code (R171): the tag, free or not, joined with the payload. -/
def composeNet (cat : Nibble) (p k : Mask) : Word := tagNet cat ||| (payloadOf p k).setWidth 64

/-! Forms the spec calls equivalent -/

/-- The bit-parallel tally of R129. -/
def bitParallelTally (r : PerSuit Mask) : Tally :=
  let x1 := r.s0 &&& r.s1
  let x0 := r.s0 ^^^ r.s1
  let y1 := r.s2 &&& r.s3
  let y0 := r.s2 ^^^ r.s3
  let s0 := x0 ^^^ y0
  let c0 := x0 &&& y0
  let s1 := x1 ^^^ y1 ^^^ c0
  ⟨s0 &&& ~~~s1, ~~~s0 &&& s1, s0 &&& s1⟩

/-- The `s2` of R129, which equals `QUADS`. -/
def bitParallelQuads (r : PerSuit Mask) : Mask :=
  let x1 := r.s0 &&& r.s1
  let x0 := r.s0 ^^^ r.s1
  let y1 := r.s2 &&& r.s3
  let y0 := r.s2 ^^^ r.s3
  let c0 := x0 &&& y0
  (x1 &&& y1) ||| (c0 &&& (x1 ^^^ y1))

/-- The straight detector on the packed hand as one 64-bit word (R126). -/
def wholeWordStraight (hand : Word) : Word :=
  hand &&& (hand <<< 1) &&& (hand <<< 2) &&& (hand <<< 3) &&& (hand <<< 4)

/-- Is bit `j` of some lane of a word set? The high-card index "modulo 16" of R126. -/
def someLaneBit (v : Word) (j : Nat) : Bool := (List.finRange 4).any fun s => v.getLsbD (16 * s.val + j)

end Sys2Proof.Machine
end

