-- ==== Sys2Proof/Machine/State.lean ====
section
/-! DEFINITION. The machine's state as plain data: the ports of R26 and R28, the stage entries of R28, the nets of R27 and
the results of the sub-block functions, and the model's own fields for the environment (D26) and for free values. The
block has no register, program counter, flag, mode or memory (R20 to R25, R40). -/

namespace Sys2Proof.Machine

/-- One entry `st[k]` of the pipelined wrapper (R28). -/
structure Stage where
  valid : Bool
  val : Word
deriving DecidableEq, Repr

/-- The machine. `stages` is `st[0..L-1]`: its length is `PIPELINE_LATENCY`, and the empty list is the combinational
block. -/
structure State where
  /-- The word on the input port `hand_i` (R26). -/
  handI : Word
  /-- The word on the output port `value_o`, as last sampled (R26, R28) (DESIGN CHOICE, log 4). -/
  valueO : Word
  /-- The level of the wrapper's input port `rst` (R28). -/
  rst : Bool
  /-- The level of the wrapper's input port `in_valid` (R28). -/
  inValid : Bool
  /-- `hand_i` has been held for `T_settle` when `value_o` is sampled (R264); the model's own (log 7). -/
  settled : Bool
  /-- The stage entries `st[0..L-1]`, the first accepted last (R28). -/
  stages : List Stage
  /-- The nets of the bit_pattern_matcher (R27). -/
  matcher : MatcherNets
  /-- The nets of the rank_encoder and the category_tagger (R27). -/
  values : ValueNets
  /-- The result of a BPM_STRAIGHT performed on its own (R125). -/
  straightOut : Mask
  /-- The result of a RE_HIBIT performed on its own (R150). -/
  hibitOut : Mask
  /-- The result of a RE_TOPK performed on its own (R151). -/
  topkOut : Mask
  /-- The packed hand the environment's adapter produced last (R100). -/
  packed : Word
  /-- The transactions the environment will present, oldest first (D26); the model's own (log 1). -/
  pending : List Transaction
  /-- How many fresh free values have been drawn; the model's own (log 9). -/
  draws : Nat
deriving DecidableEq, Repr

/-- What stops the machine with a fault: nothing. "No input raises a trap, fault or exception" (R230), so the type has
no constructor. -/
inductive Fault where
deriving DecidableEq, Repr

/-- What the model gives no meaning to. -/
inductive Refusal where
  /-- Raised by an arm of `exec` whose instruction has no meaning yet; no arm is left so. Safe. -/
  | notModelled (mnemonic : String)
  /-- Raised by `step` on a transaction whose word does not have the width of the row it names (log 12); every operand value
  of that width runs. The hardware has no such transaction. Safe. -/
  | undecodable (e : DecodeError)
deriving DecidableEq, Repr

/-- The stage entries after a reset: not valid, and any value (R29). -/
def resetStages (latency : Nat) : List Stage := (List.range latency).map fun k => ⟨false, Config.freeWord k⟩

/-- The machine right after reset, for a wrapper of the given latency (R29, R261), or the combinational block at 0
(R260): `value_o` is CLASSIFY of the word on `hand_i`, or any value while nothing has come through the wrapper. The port
levels and the results of functions not yet performed are zeros (DESIGN CHOICE, log 3). -/
def State.resetWith (latency : Nat) : State where
  handI := 0
  valueO := if latency = 0 then evaluateWord 0 else Config.freeWord latency
  rst := false
  inValid := false
  settled := true
  stages := resetStages latency
  matcher := matcherNets 0
  values := valueNets 0
  straightOut := 0
  hibitOut := 0
  topkOut := 0
  packed := 0
  pending := []
  draws := if latency = 0 then 0 else latency + 1

/-- The machine right after reset, for the default latency (R6, log 8). -/
def State.reset : State := State.resetWith Config.pipelineLatency

end Sys2Proof.Machine
end

