-- ==== Sys2Proof/Machine/Ops.lean ====
section
/-! DEFINITION. The named operations over the state: driving the input port, one rising edge of the wrapper's clock,
sampling the output port, writing the result of one sub-block function, and taking the next transaction. There is no
exception to take and none to return from (R230, R234). -/

namespace Sys2Proof.Machine

/-- `out_valid` (R28): the last stage's valid bit; the combinational block has no such port (R26). -/
def State.outValid (s : State) : Option Bool := s.stages.getLast?.map Stage.valid

/-- `PIPELINE_LATENCY` of this machine (R6, R28). -/
def State.latency (s : State) : Nat := s.stages.length

/-- Drive a word on `hand_i`: every net follows (R27). -/
def State.driveHand (s : State) (hand : Word) : State :=
  { s with handI := hand, matcher := matcherNets hand, values := valueNets hand }

/-- Stage entries cleared by `rst = 1`: not valid, and any value from the `draw`-th on (R28, R29, I7). -/
def clearStages (draw : Nat) : List Stage → List Stage
  | [] => []
  | _ :: rest => ⟨false, Config.freeWord draw⟩ :: clearStages (draw + 1) rest

/-- The shift of R28: the new entry enters at `st[0]`, and every entry moves up by one. -/
def shiftStages (entry : Stage) : List Stage → List Stage
  | [] => []
  | first :: rest => entry :: shiftStages first rest

/-- The stage entries after one rising edge of `clk` (R28). -/
def State.stagesAfterEdge (s : State) : List Stage :=
  if s.rst then clearStages s.draws s.stages else shiftStages ⟨s.inValid, evaluateWord s.handI⟩ s.stages

/-- One rising edge of `clk` (R28); it changes nothing in the combinational block, which has no stage. -/
def State.clockEdge (s : State) : State :=
  { s with stages := s.stagesAfterEdge, draws := if s.rst then s.draws + s.stages.length else s.draws }

/-- The word a consumer samples on `value_o`: in the combinational block the value of the settled hand (R26), or any
value before it has settled (R264, I8); in the wrapper the last stage's value when `out_valid` = 1, else any value
(R28, I7). The Boolean says that a free value was drawn. -/
def State.sampledWord (s : State) : Word × Bool :=
  match s.stages.getLast? with
  | none => if s.settled then (evaluateWord s.handI, false) else (Config.freeWord s.draws, true)
  | some last => if last.valid then (last.val, false) else (Config.freeWord s.draws, true)

/-- Sample `value_o`. -/
def State.sampleOutput (s : State) : State :=
  { s with valueO := s.sampledWord.1, draws := s.draws + s.sampledWord.2.toNat }

/-- Write the matcher's nets (a sub-block function writes its own result nets only, log 14). -/
def State.setMatcher (s : State) (m : MatcherNets) : State := { s with matcher := m }

/-- Write the rank_encoder's and category_tagger's nets. -/
def State.setValues (s : State) (v : ValueNets) : State := { s with values := v }

/-- Write the result of a BPM_STRAIGHT. -/
def State.setStraightOut (s : State) (m : Mask) : State := { s with straightOut := m }

/-- Write the result of a RE_HIBIT. -/
def State.setHibitOut (s : State) (m : Mask) : State := { s with hibitOut := m }

/-- Write the result of a RE_TOPK. -/
def State.setTopkOut (s : State) (m : Mask) : State := { s with topkOut := m }

/-- Write the adapter's packed hand. -/
def State.setPacked (s : State) (hand : Word) : State := { s with packed := hand }

/-- Take a transaction: the rest stays pending, and an EVALUATE sets the levels of the wrapper's ports and says whether
`hand_i` will have settled; no other transaction touches the ports (log 1). -/
def State.accept (s : State) (t : Transaction) (rest : List Transaction) : State :=
  if t.op = .evaluate then
    { s with pending := rest, rst := t.rst, inValid := t.inValid, settled := t.settled }
  else { s with pending := rest }

/-- The state at power-up for a given latency (R262, D18, I7): every stage field, valid bits included, holds any value,
and `value_o` shows what the last of them gives; the combinational block needs no reset (R260). -/
def State.powerUp (latency : Nat) : State :=
  State.sampleOutput
    { State.resetWith latency with
      stages := (List.range latency).map fun k => ⟨Config.freeBit k, Config.freeWord k⟩ }

end Sys2Proof.Machine
end

