-- ==== Sys2Proof/Machine/Adapter.lean ====
section
/-! DEFINITION. The Encoding Adapter's operation (40_encoding_adapter.md), performed by the environment (D15). -/

namespace Sys2Proof.Machine

/-- PACK (R100): the packed hand of a card mask; the block's ports and nets are not touched. -/
def execPack (mask : CardMask) (s : State) : Host.Outcome State Fault Refusal :=
  .next (s.setPacked (pack mask))

end Sys2Proof.Machine
end

