-- ==== Sys2Proof/Machine/Evaluate.lean ====
section
/-! DEFINITION. The top level's operation (44_poker_hand_classifier.md). -/

namespace Sys2Proof.Machine

/-- EVALUATE (R190, R26, R28): drive `hand_i`; with a wrapper, one rising edge of `clk`, on which `rst` clears the
stages or the hand's value enters them; then sample `value_o`. -/
def execEvaluate (hand : Word) (s : State) : Host.Outcome State Fault Refusal :=
  .next (s.driveHand hand).clockEdge.sampleOutput

end Sys2Proof.Machine
end

