-- ==== Sys2Proof/Machine/Matcher.lean ====
section
/-! DEFINITION. The bit_pattern_matcher's functions (41_bit_pattern_matcher.md), each performed on its own operands:
it writes its result nets and nothing else. -/

namespace Sys2Proof.Machine

/-- BPM_LANES (R120). -/
def execBpmLanes (hand : Word) (s : State) : Host.Outcome State Fault Refusal :=
  .next (s.setMatcher { s.matcher with w := straightLanes hand, r := rankLanes hand })

/-- BPM_PRESENCE (R121). -/
def execBpmPresence (w : PerSuit Mask) (s : State) : Host.Outcome State Fault Refusal :=
  .next (s.setMatcher { s.matcher with or14 := orLanes w, present := presentRanks w })

/-- BPM_QUADS (R122), on any four lanes (log 20). -/
def execBpmQuads (r : PerSuit Mask) (s : State) : Host.Outcome State Fault Refusal :=
  .next (s.setMatcher { s.matcher with quads := quadsNet r })

/-- BPM_DISTINCT (R123), on any mask (log 20). -/
def execBpmDistinct (present : Mask) (s : State) : Host.Outcome State Fault Refusal :=
  .next (s.setMatcher { s.matcher with n := distinctNet present })

/-- BPM_SUITCOUNT (R124), on any four lanes (log 20). -/
def execBpmSuitcount (r : PerSuit Mask) (s : State) : Host.Outcome State Fault Refusal :=
  .next (s.setMatcher { s.matcher with lc := suitcountNets r })

/-- BPM_STRAIGHT (R125): the detector on its own; the nets SFM and STM are R126's and R127's. -/
def execBpmStraight (m : Mask) (s : State) : Host.Outcome State Fault Refusal :=
  .next (s.setStraightOut (straightMask m))

/-- BPM_SFDETECT (R126). -/
def execBpmSfdetect (w : PerSuit Mask) (s : State) : Host.Outcome State Fault Refusal :=
  .next (s.setMatcher { s.matcher with sfm := straightFlushMask w })

/-- BPM_STDETECT (R127). -/
def execBpmStdetect (or14 : Mask) (s : State) : Host.Outcome State Fault Refusal :=
  .next (s.setMatcher { s.matcher with stm := straightMask or14 })

/-- BPM_TALLY (R128): it reads rank indices 1..13 only, so its result is stated whatever bit 0 of a lane is. -/
def execBpmTally (r : PerSuit Mask) (s : State) : Host.Outcome State Fault Refusal :=
  .next (s.setMatcher { s.matcher with
    singles := (tallyOf r).singles, pairs := (tallyOf r).pairs, trips := (tallyOf r).trips })

end Sys2Proof.Machine
end

