-- ==== Sys2Proof/Machine/RankEncoder.lean ====
section
/-! DEFINITION. The rank_encoder's functions (42_rank_encoder.md), each performed on its own operands. -/

namespace Sys2Proof.Machine

/-- RE_HIBIT (R150). -/
def execReHibit (m : Mask) (s : State) : Host.Outcome State Fault Refusal :=
  .next (s.setHibitOut (hibit m))

/-- RE_TOPK (R151), for any 3-bit count (log 20). -/
def execReTopk (m : Mask) (k : BitVec 3) (s : State) : Host.Outcome State Fault Refusal :=
  .next (s.setTopkOut (topkNet m k))

/-- RE_PAYLOAD (R152). -/
def execRePayload (p k : Mask) (s : State) : Host.Outcome State Fault Refusal :=
  .next (s.setValues { s.values with payload := payloadOf p k })

end Sys2Proof.Machine
end

