-- ==== Sys2Proof/Machine/Tagger.lean ====
section
/-! DEFINITION. The category_tagger's functions (43_category_tagger.md), each performed on its own operands. -/

namespace Sys2Proof.Machine

/-- CT_TAG (R170), for any 4-bit code (log 20). -/
def execCtTag (cat : Nibble) (s : State) : Host.Outcome State Fault Refusal :=
  .next (s.setValues { s.values with tag := tagNet cat })

/-- CT_COMPOSE (R171), for any 4-bit code (log 20). -/
def execCtCompose (cat : Nibble) (p k : Mask) (s : State) : Host.Outcome State Fault Refusal :=
  .next (s.setValues { s.values with value := composeNet cat p k })

end Sys2Proof.Machine
end

