-- ==== Sys2Proof/Machine/Dispatch.lean ====
section
/-! DEFINITION. One arm per row of the opcode table. -/

namespace Sys2Proof.Machine

def exec (i : Instr) (s : State) : Host.Outcome State Fault Refusal :=
  match i with
  | .evaluate hand => Sys2Proof.Machine.execEvaluate hand s
  | .pack mask => Sys2Proof.Machine.execPack mask s
  | .bpmLanes hand => Sys2Proof.Machine.execBpmLanes hand s
  | .bpmPresence w => Sys2Proof.Machine.execBpmPresence w s
  | .bpmQuads r => Sys2Proof.Machine.execBpmQuads r s
  | .bpmDistinct present => Sys2Proof.Machine.execBpmDistinct present s
  | .bpmSuitcount r => Sys2Proof.Machine.execBpmSuitcount r s
  | .bpmStraight m => Sys2Proof.Machine.execBpmStraight m s
  | .bpmSfdetect w => Sys2Proof.Machine.execBpmSfdetect w s
  | .bpmStdetect or14 => Sys2Proof.Machine.execBpmStdetect or14 s
  | .bpmTally r => Sys2Proof.Machine.execBpmTally r s
  | .reHibit m => Sys2Proof.Machine.execReHibit m s
  | .reTopk m k => Sys2Proof.Machine.execReTopk m k s
  | .rePayload p k => Sys2Proof.Machine.execRePayload p k s
  | .ctTag cat => Sys2Proof.Machine.execCtTag cat s
  | .ctCompose cat p k => Sys2Proof.Machine.execCtCompose cat p k s

end Sys2Proof.Machine
end

