-- ==== Sys2Proof/Machine/Fetch.lean ====
section
/-! DEFINITION. Where the next instruction comes from: the oldest pending transaction, or the levels held on the ports
(D26, log 1, log 15). -/

namespace Sys2Proof.Machine

/-- What a step is to run, and in which state: the decoded transaction after it is taken, the held hand if none is
pending, or the reason the transaction is no instruction. -/
def State.fetch (s : State) : Except DecodeError (Instr × State) :=
  match s.pending with
  | [] => .ok (.evaluate s.handI, s)
  | t :: rest =>
    match decode t.op t.nbits t.bits with
    | .ok i => .ok (i, s.accept t rest)
    | .error e => .error e

/-- The transaction that carries a bare word: `rst` low, `in_valid` high, the hand held until it has settled. -/
def transactionOf (nbits w : Nat) : Transaction where
  rst := false
  inValid := true
  settled := true
  op := (opOfWidth nbits).getD .evaluate
  nbits := nbits
  bits := w

end Sys2Proof.Machine
end

