-- ==== Sys2Proof/Machine/Step.lean ====
section
/-! DEFINITION. One step: take the next transaction and perform it (D26). -/

namespace Sys2Proof.Machine

/-- One step of the machine. -/
def step (s : State) : Host.Outcome State Fault Refusal :=
  match s.fetch with
  | .ok (i, s') => exec i s'
  | .error e => .refused (.undecodable e)

/-- `s` with the word as the oldest pending transaction, so that the next step performs it (log 15). -/
def State.withFetchWord (s : State) (nbits w : Nat) : State :=
  { s with pending := transactionOf nbits w :: s.pending }

end Sys2Proof.Machine
end

