-- ==== Sys2Proof/Safety.lean ====
section
/-! DEFINITION. The terms the statements use: the invariant every step keeps, the host-side comparison of values (R73,
R266), and standard poker ranking written down on cards, independently of the block's masks (R13, G1, G5). -/

namespace Sys2Proof

open Sys2Proof.Machine

/-! The forms of the nets and results -/

/-- A straight mask has only bits 13..4 (R125). -/
def straightForm (m : Mask) : Bool := m &&& 0xF == 0

/-- A 4-bit count of ranks is in 0..13 (R27). -/
def countForm (n : Nibble) : Bool := decide (n.toNat ≤ 13)

/-- The nets of the matcher have the forms of R27: bit 0 of the rank masks is 0, the counts are in 0..13, and the straight
masks hold high cards only (R125). Bit 0 of `QUADS` stands in `NarrowForm`: a BPM_QUADS performed on its own on lanes R27
rules out leaves it free (log 20). -/
def MatcherForm (m : MatcherNets) : Prop :=
  m.r.all realRanks = true ∧ realRanks m.present = true ∧ realRanks m.singles = true ∧
    realRanks m.pairs = true ∧ realRanks m.trips = true ∧
    countForm m.n = true ∧ m.lc.all countForm = true ∧ straightForm m.sfm = true ∧ straightForm m.stm = true

/-- One of the nine tags of R66. -/
def tagForm (t : Word) : Bool := (List.range 9).any fun c => t == tagOf (BitVec.ofNat 4 c)

/-- A payload has bits 31..30 and 15..14 zero (R65, R152). -/
def payloadForm (v : BitVec 32) : Bool := v &&& 0xC000_C000 == 0

/-- The layout of R65: one tag above a payload. -/
def valueForm (v : Word) : Bool := tagForm (v &&& 0xFFFF_FFFF_0000_0000) && payloadForm (v.setWidth 32)

/-- The category code and the payload have the forms of R27, R66 and R152. -/
def ValueNetsForm (v : ValueNets) : Prop := v.cat.toNat ≤ 8 ∧ payloadForm v.payload = true

/-- The results of functions performed on their own have their rules' forms: a straight mask (R125), at most one bit
(R150), and a word of PACK's image (R102). -/
def ResultForm (s : State) : Prop :=
  straightForm s.straightOut = true ∧ popcount s.hibitOut ≤ 1 ∧
    unusedClear s.packed = true ∧ acesAgree s.packed = true

/-- The forms that hold as long as only well-formed instructions are performed (log 20): bit 0 of `QUADS` is 0 (R27), at
most five ranks stand in a TOPK (R151), and the tag is one of nine, alone and above a payload (R65). -/
def NarrowForm (s : State) : Prop :=
  realRanks s.matcher.quads = true ∧ popcount s.topkOut ≤ 5 ∧ tagForm s.values.tag = true ∧
    valueForm s.values.value = true

/-- What `value_o` shows agrees with its continuous definition: the value of a settled hand in the combinational block
(R26), the last stage's value while `out_valid` = 1 in the wrapper (R28). -/
def PortsAgree (s : State) : Prop :=
  match s.stages.getLast? with
  | none => s.settled = true → s.valueO = evaluateWord s.handI
  | some last => last.valid = true → s.valueO = last.val

/-- The machine's invariant. -/
def MachineInv (s : State) : Prop := MatcherForm s.matcher ∧ ValueNetsForm s.values ∧ ResultForm s ∧ PortsAgree s

/-! Presenting cycles, and the rules as a list -/

/-- One cycle of the wrapper, or one evaluation of the combinational block: an EVALUATE with its port levels, the hand
held until it has settled (R28, R73, D26). -/
def cycle (rst inValid : Bool) (hand : Word) : Transaction where
  rst := rst
  inValid := inValid
  settled := true
  op := .evaluate
  nbits := 64
  bits := hand.toNat

/-- The state that `s` becomes by performing, one after another, instructions whose operands are read from the nets; a
stop ends the list early (used for R70's view of EVALUATE as its sub-blocks' functions). -/
def performAll (s : State) : List (State → Instr) → State
  | [] => s
  | f :: rest =>
    match exec (f s) s with
    | .next t => performAll t rest
    | .fault _ => s
    | .refused _ => s

/-- The matcher's functions in the order of R190's nets, each fed with the nets the ones before it drove. -/
def matcherPass (hand : Word) : List (State → Instr) :=
  [fun _ => .bpmLanes hand,
   fun s => .bpmPresence s.matcher.w,
   fun s => .bpmQuads s.matcher.r,
   fun s => .bpmDistinct s.matcher.present,
   fun s => .bpmSuitcount s.matcher.r,
   fun s => .bpmSfdetect s.matcher.w,
   fun s => .bpmStdetect s.matcher.or14,
   fun s => .bpmTally s.matcher.r]

/-- The ten category rules R193 to R202, in R190's order: the rule's own condition, written out in full as its
"Condition" line reads once the rules before it are excluded, and what it supplies. -/
def categoryRules (m : MatcherNets) : List (Bool × Selection) :=
  let five := decide (5 ≤ m.n.toNat)
  let flushes := (List.finRange 4).filter fun s => decide (5 ≤ (m.lc.get s).toNat)
  let sf := five && m.sfm != 0
  let fl := five && m.sfm == 0 && !flushes.isEmpty
  let st := five && m.sfm == 0 && flushes.isEmpty && m.stm != 0
  let late := !sf && !fl && !st
  let q := m.quads
  let trips := popcount m.trips
  let pairs := popcount m.pairs
  [(sf, ⟨.straightFlush, hibit m.sfm, 0⟩),
   (fl, ⟨.flush, topk (m.r.get (flushes.headD 0)) 5, 0⟩),
   (st, ⟨.straight, hibit m.stm, 0⟩),
   (late && q != 0, ⟨.fourOfAKind, hibit q, hibit (m.present &&& ~~~hibit q)⟩),
   (late && q == 0 && decide (2 ≤ trips), ⟨.fullHouse, hibit m.trips, hibit (m.trips &&& ~~~hibit m.trips)⟩),
   (late && q == 0 && trips == 1 && m.pairs != 0, ⟨.fullHouse, m.trips, hibit m.pairs⟩),
   (late && q == 0 && trips == 1 && m.pairs == 0, ⟨.threeOfAKind, m.trips, topk m.singles 2⟩),
   (late && q == 0 && m.trips == 0 && decide (2 ≤ pairs),
     ⟨.twoPair, topk m.pairs 2, hibit (m.present &&& ~~~topk m.pairs 2)⟩),
   (late && q == 0 && m.trips == 0 && pairs == 1, ⟨.onePair, m.pairs, topk m.singles 3⟩),
   (late && q == 0 && m.trips == 0 && m.pairs == 0, ⟨.highCard, topk m.singles 5, 0⟩)]

/-! Host-side comparison -/

/-- A consumer's comparison that follows R266: no ranking if either value is the sentinel, else the unsigned comparison
of R73's CMP and R205. -/
def compareValues (v1 v2 : Word) : Option Ordering :=
  if isSentinel v1 || isSentinel v2 then none else some (compare v1.toNat v2.toNat)

/-! Cards -/

/-- A card: rank 2..14, 14 the Ace, and suit (R10). -/
structure Card where
  rank : Nat
  suit : Suit
deriving DecidableEq, Repr

/-- The ranks from the Ace down (R10). -/
def ranksDown : List Nat := [14, 13, 12, 11, 10, 9, 8, 7, 6, 5, 4, 3, 2]

/-- The cards of a packed hand (R62). -/
def cardsOf (hand : Word) : List Card :=
  (List.finRange 4).flatMap fun s =>
    (ranksDown.filter fun rank => hand.getLsbD (handBit rank s)).map fun rank => ⟨rank, s⟩

/-- The card mask of a list of cards (R60, R73). -/
def maskOfCards (cards : List Card) : CardMask :=
  cards.foldl (fun m c => m ||| ((1 : CardMask) <<< cardBit c.rank c.suit)) 0

/-- The rank indices of a mask, from the highest down (R153). -/
def indicesDown (m : Mask) : List Nat := (List.range 14).reverse.filter fun j => m.getLsbD j

/-- The hand with its lanes permuted: lane `s` of the result is lane `σ s` of the hand (R206). -/
def permuteLanes (σ : Equiv.Perm Suit) (hand : Word) : Word :=
  BitVec.ofFnLE fun i : Fin 64 => hand.getLsbD (16 * (σ ⟨i.val / 16, by omega⟩).val + i.val % 16)

/-! Standard poker ranking (G1, G5): the category of a five-card hand, its defining ranks, then its kickers -/

/-- How many of the cards have this rank. -/
def cardsOfRank (cards : List Card) (rank : Nat) : Nat := cards.countP fun c => c.rank == rank

/-- The ranks held exactly `c` times, from the highest down. -/
def ranksHeldTimes (cards : List Card) (c : Nat) : List Nat := ranksDown.filter fun rank => cardsOfRank cards rank == c

/-- The highest straight among the cards, by its high card; below the 2 an Ace counts as 1 (R13, "Wheel"). -/
def straightTop (cards : List Card) : Option Nat :=
  [14, 13, 12, 11, 10, 9, 8, 7, 6, 5].find? fun top =>
    (List.range 5).all fun d => decide (0 < cardsOfRank cards (if top - d = 1 then 14 else top - d))

/-- Are all the cards of one suit? -/
def oneSuit (cards : List Card) : Bool := (List.finRange 4).any fun s => cards.all fun c => c.suit == s

/-- The category of five cards and the ranks that order it within its category. -/
def fiveCardRanking (cards : List Card) : Category × List Nat :=
  match straightTop cards, oneSuit cards, ranksHeldTimes cards 4, ranksHeldTimes cards 3, ranksHeldTimes cards 2 with
  | some top, true, _, _, _ => (.straightFlush, [top])
  | _, _, q :: _, _, _ => (.fourOfAKind, q :: ranksHeldTimes cards 1)
  | _, _, _, t :: _, p :: _ => (.fullHouse, [t, p])
  | _, true, _, _, _ => (.flush, ranksHeldTimes cards 1)
  | some top, _, _, _, _ => (.straight, [top])
  | _, _, _, t :: _, _ => (.threeOfAKind, t :: ranksHeldTimes cards 1)
  | _, _, _, _, p :: p' :: _ => (.twoPair, p :: p' :: ranksHeldTimes cards 1)
  | _, _, _, _, p :: _ => (.onePair, p :: ranksHeldTimes cards 1)
  | _, _, _, _, _ => (.highCard, ranksHeldTimes cards 1)

/-- A ranking as one number: the category, then at most five ranks, each a digit in base 16, so that numbers compare as
the rankings do, from the category down (G5). -/
def rankingNumber (r : Category × List Nat) : Nat :=
  ((r.2 ++ [0, 0, 0, 0, 0]).take 5).foldl (fun acc rank => 16 * acc + rank) r.1.code.toNat

/-- The strength of a hand: that of its best five cards (R13, G1). -/
def bestFive (hand : Word) : Nat :=
  ((cardsOf hand).sublistsLen 5).foldl (fun best five => max best (rankingNumber (fiveCardRanking five))) 0

/-- The category of a hand of 5 to 7 cards, tested in the standard order from the strongest down (R13), not in R190's. -/
def standardCategory (hand : Word) : Category :=
  let cards := cardsOf hand
  let atLeast (c : Nat) : List Nat := ranksDown.filter fun rank => decide (c ≤ cardsOfRank cards rank)
  if (List.finRange 4).any fun s => (straightTop (cards.filter fun c => c.suit == s)).isSome then .straightFlush
  else if atLeast 4 ≠ [] then .fourOfAKind
  else if atLeast 3 ≠ [] ∧ 2 ≤ (atLeast 2).length then .fullHouse
  else if (List.finRange 4).any fun s => decide (5 ≤ cards.countP fun c => c.suit == s) then .flush
  else if (straightTop cards).isSome then .straight
  else if atLeast 3 ≠ [] then .threeOfAKind
  else if 2 ≤ (atLeast 2).length then .twoPair
  else if atLeast 2 ≠ [] then .onePair
  else .highCard

end Sys2Proof
end

