-- ==== Sys2Proof/Certificates/Slice0/Obligations.lean ====
section
/-! DEFINITION. The statements for the provers. Each docstring names the rules of spec/ it formalises, and the log entry
where a clause rests on a choice of the model. -/

open Sys2Proof Sys2Proof.Machine

/-! Encoding, decoding and the step -/

/-- opcode_table.json, R60, R61: the bits of any instruction, every operand at every value of its width, in any carrier
its row accepts, decode to it (carriers: log 12, lane order: log 11, every value: log 13). -/
def Obligations.DecodeOfEncodeIsTheInstruction : Prop :=
  ∀ (i : Instr) (nbits : Nat), i.op.acceptsWidth nbits = true → decode i.op nbits (encode i) = .ok i

/-- opcode_table.json, R70, D15: what decodes is an instruction of the row named, and its encoding is the word; PACK
alone leaves the bits above 51 unread (log 11, log 12). -/
def Obligations.EncodeOfDecodeIsTheWord : Prop :=
  ∀ (op : Op) (nbits bits : Nat) (i : Instr), decode op nbits bits = .ok i →
    i.op = op ∧ encode i = if op = .pack then bits % 2 ^ 52 else bits

/-- R230, R70, opcode_table.json: whatever the value of the operands, bits of the row's width decode, and the
instruction answers a next state in every state, also on an operand that never occurs in the block (log 13, log 20); the
decoder turns away only a carrier of another width, or bits above the row (log 12). -/
def Obligations.EveryOperandValueDecodesAndRuns : Prop :=
  ∀ (op : Op) (nbits bits : Nat),
    (op.acceptsWidth nbits = true → bits < 2 ^ op.width →
      ∃ i, decode op nbits bits = .ok i ∧ ∀ s : State, ∃ t, exec i s = .next t) ∧
    (decode op nbits bits = .error (.wrongWidth op nbits) ↔ op.acceptsWidth nbits = false) ∧
    (decode op nbits bits = .error (.bitsAboveWidth op) ↔
      op.acceptsWidth nbits = true ∧ (2 ^ nbits ≤ bits ∨ op ≠ .pack ∧ 2 ^ op.width ≤ bits))

/-- opcode_table.json and 95_test_vectors.md: words written out from the rows' encodings decode to what they stand for:
the source's wheel hand, its card mask, nines of all suits, TOPK(0x2A54, 3), and VAL(7, 0x0100, 0x2000). -/
def Obligations.WrittenOutWordsDecode : Prop :=
  decode .evaluate 64 0x0008_1004_0102_2011 = .ok (.evaluate 0x0008_1004_0102_2011) ∧
  decode .pack 52 0x0022008103008 = .ok (.pack 0x0022008103008) ∧
  decode .bpmQuads 56 0b00000100000000_00100100000000_01000100000000_10000100000000 =
    .ok (.bpmQuads ⟨0x2100, 0x1100, 0x0900, 0x0100⟩) ∧
  decode .reTopk 17 0b10101001010100_011 = .ok (.reTopk 0x2A54 3) ∧
  decode .ctCompose 32 0b0111_00000100000000_10000000000000 = .ok (.ctCompose 7 0x0100 0x2000)

/-- D26, R73 (log 1, log 15): a step performs the oldest pending transaction when its bits decode, in the state that has
taken it: the rest stays pending, an EVALUATE sets the port levels, any other leaves them; with none pending it
evaluates the held hand again; and bits of a wrong width are refused by name (log 12). -/
def Obligations.StepPerformsTheOldestTransaction : Prop :=
  (∀ (s : State) (t : Transaction) (rest : List Transaction) (i : Instr),
    s.pending = t :: rest → decode t.op t.nbits t.bits = .ok i →
      ∃ s', step s = exec i s' ∧
        (t.op = .evaluate →
          s' = { s with pending := rest, rst := t.rst, inValid := t.inValid, settled := t.settled }) ∧
        (t.op ≠ .evaluate → s' = { s with pending := rest })) ∧
  (∀ s : State, s.pending = [] → step s = exec (.evaluate s.handI) s) ∧
  (∀ (s : State) (t : Transaction) (rest : List Transaction) (e : DecodeError),
    s.pending = t :: rest → decode t.op t.nbits t.bits = .error e → step s = .refused (.undecodable e))

/-! Invariants, faults, reset -/

/-- R26, R27, R28, R66, R102, R125, R150, R152: every step, on any operands, keeps the forms of the nets and results and
the agreement of `value_o` with what drives it (log 2, log 4, log 14). -/
def Obligations.EveryStepKeepsTheMachineInvariant : Prop :=
  ∀ s t : State, MachineInv s → step s = .next t → MachineInv t

/-- R29, R262: the invariant and the narrow forms hold after reset and at power-up, for every latency (log 3). -/
def Obligations.MachineInvariantAfterResetAndPowerUp : Prop :=
  (MachineInv State.reset ∧ NarrowForm State.reset) ∧
    ∀ latency : Nat, (MachineInv (State.resetWith latency) ∧ NarrowForm (State.resetWith latency)) ∧
      MachineInv (State.powerUp latency) ∧ NarrowForm (State.powerUp latency)

/-- R6, R23: `PIPELINE_LATENCY` is a build-time parameter: no step changes the number of stages. -/
def Obligations.StepKeepsThePipelineLatency : Prop :=
  ∀ s t : State, step s = .next t → t.latency = s.latency

/-- R230, R232: no instruction and no step stops with a fault, every instruction answers a next state in every state,
and a step is refused only for a transaction whose bits do not have the width of the row it names (log 12). -/
def Obligations.NothingTraps : Prop :=
  (∀ (i : Instr) (s : State), ∃ t, exec i s = .next t) ∧
  (∀ (s : State) (f : Fault), step s ≠ .fault f) ∧
  (∀ (s : State) (r : Refusal), step s = .refused r →
    ∃ t rest e, s.pending = t :: rest ∧ decode t.op t.nbits t.bits = .error e ∧ r = .undecodable e)

/-- R29, R260: after reset a wrapper of latency L > 0 holds L entries, none valid, and `out_valid` is 0; the
combinational block has no stage and no `out_valid`, and `value_o` is CLASSIFY of the word on `hand_i` whenever that is
exact. The default machine is the combinational block (R6). -/
def Obligations.ResetLeavesNoValidResult : Prop :=
  State.reset = State.resetWith 0 ∧
  (∀ latency : Nat, 0 < latency →
    (State.resetWith latency).latency = latency ∧ (State.resetWith latency).outValid = some false ∧
      ∀ e ∈ (State.resetWith latency).stages, e.valid = false) ∧
  State.reset.stages = [] ∧ State.reset.outValid = none ∧ State.reset.valueO = classify State.reset.handI ∧
  State.reset.valueO = 0xFFFF_FFFF_FFFF_FFFF

/-- R261, R262, D18: a rising edge with `rst = 1` clears every valid bit, whatever the stages held, so that `out_valid`
is 0 from that edge on; the number of stages stays. -/
def Obligations.ResetEdgeClearsEveryValidBit : Prop :=
  ∀ (s : State) (hand : Word), s.stages ≠ [] → s.rst = true →
    ∃ t, exec (.evaluate hand) s = .next t ∧ t.latency = s.latency ∧ t.outValid = some false ∧
      ∀ e ∈ t.stages, e.valid = false

/-- R261: after a reset `out_valid` stays 0 for fewer cycles than the latency, whatever is presented. -/
def Obligations.OutValidStaysLowAfterReset : Prop :=
  ∀ (s : State) (cycles : List (Bool × Word)) (later : List Transaction),
    (∀ e ∈ s.stages, e.valid = false) → cycles.length < s.latency →
    s.pending = cycles.map (fun c => cycle false c.1 c.2) ++ later →
      ∃ t, Host.Core.run core cycles.length s = .next t ∧ t.outValid = some false ∧ t.pending = later

/-- R261, R265, C6, where a cycle is one pending EVALUATE (log 1, log 16): a hand presented in cycle c, with `rst = 0`
at the edge that ends c and at the L - 1 edges after it, is what the output shows in cycle c + L: after L edges
`out_valid` is the `in_valid` that came with it, and if that was 1 `value_o` is its value. Hands presented behind it do
not disturb it. -/
def Obligations.AcceptedHandLeavesAfterLatencyEdges : Prop :=
  ∀ (s : State) (hand : Word) (valid : Bool) (behind : List (Bool × Word)) (later : List Transaction),
    s.latency = behind.length + 1 →
    s.pending = cycle false valid hand :: (behind.map fun c => cycle false c.1 c.2) ++ later →
      ∃ t, Host.Core.run core (behind.length + 1) s = .next t ∧ t.outValid = some valid ∧
        (valid = true → t.valueO = evaluateWord hand) ∧ t.pending = later

/-! EVALUATE -/

/-- R190, R192, R193 to R202, R233: whenever the sentinel condition does not hold, exactly one of the ten category rules
fires, and CLASSIFY is the value that rule supplies. -/
def Obligations.ExactlyOneCategoryRuleSuppliesTheValue : Prop :=
  ∀ hand : Word, sentinelCondition (matcherNets hand).n = false →
    ∃ sel, (categoryRules (matcherNets hand)).filter (fun r => r.1) = [(true, sel)] ∧
      classify hand = sel.value

/-- R203, R26: for a well-formed hand, of 5, 6 or 7 cards, the settled combinational block completes with `value_o`
exactly CLASSIFY, which exactly one of the rules R193 to R202 supplies; beside the ports and the nets nothing
changes. -/
def Obligations.EvaluateInContractGivesClassify : Prop :=
  ∀ (s : State) (hand : Word), s.stages = [] → s.settled = true → wellFormedHand hand = true →
    ∃ t, exec (.evaluate hand) s = .next t ∧
      t.valueO = classify hand ∧
      (∃ sel, (categoryRules (matcherNets hand)).filter (fun r => r.1) = [(true, sel)] ∧ t.valueO = sel.value) ∧
      t = { s with handI := hand, valueO := classify hand, matcher := t.matcher, values := t.values }

/-- R191, R231: an input with fewer than 2 or more than 7 distinct ranks gives the all-ones sentinel on `value_o` of the
settled combinational block, and the sentinel enters the wrapper's first stage like any other value; the condition comes
before every other, is never met by a well-formed hand, and the value exceeds every well-formed hand's. -/
def Obligations.EvaluateSentinelPath : Prop :=
  ∀ (s : State) (hand : Word),
    ((List.range 13).countP (fun j => (List.finRange 4).any fun q => hand.getLsbD (16 * q.val + (j + 1))) < 2 ∨
      7 < (List.range 13).countP (fun j => (List.finRange 4).any fun q => hand.getLsbD (16 * q.val + (j + 1)))) →
    wellFormedHand hand = false ∧ classify hand = 0xFFFF_FFFF_FFFF_FFFF ∧
    (∀ other : Word, wellFormedHand other = true → classify other < 0xFFFF_FFFF_FFFF_FFFF) ∧
    ∃ t, exec (.evaluate hand) s = .next t ∧
      (s.stages = [] → s.settled = true → t.valueO = 0xFFFF_FFFF_FFFF_FFFF) ∧
      (s.stages ≠ [] → s.rst = false → t.stages.head? = some ⟨s.inValid, 0xFFFF_FFFF_FFFF_FFFF⟩)

/-- R204, D10 (log 5): an input that is neither well-formed nor on the sentinel path completes too, with a value nothing
constrains; the nets are those of the hand all the same. -/
def Obligations.EvaluateOutOfContractIsFree : Prop :=
  ∀ (s : State) (hand : Word), s.stages = [] → s.settled = true → wellFormedHand hand = false →
    sentinelCondition (matcherNets hand).n = false →
    ∃ t, exec (.evaluate hand) s = .next t ∧ t.valueO = Config.outOfContractValue hand ∧
      t.matcher = matcherNets hand ∧ t.handI = hand

/-- R264, I8 (log 7): sampled before `hand_i` has settled, the combinational block completes with `value_o` a fresh free
value; `hand_i` and the nets are the hand's, and nothing else changes. -/
def Obligations.EvaluateUnsettledGivesAnyValue : Prop :=
  ∀ (s : State) (hand : Word), s.stages = [] → s.settled = false →
    ∃ t, exec (.evaluate hand) s = .next t ∧ t.valueO = Config.freeWord s.draws ∧ t.draws = s.draws + 1 ∧
      t = { s with
        handI := hand, valueO := t.valueO, draws := t.draws, matcher := matcherNets hand, values := valueNets hand }

/-- R26, R27, R28: the frame of EVALUATE in every mode: the port levels, the stage count, the adapter's word, the
results of functions performed on their own and the pending transactions stay; `hand_i` takes the hand; the nets are the
hand's, in the wrapper too (log 16, log 17); in the combinational block no stage appears; no free value is drawn unless
the block is unsettled, the output is not valid or `rst` is 1. -/
def Obligations.EvaluateFrame : Prop :=
  ∀ (s : State) (hand : Word), ∃ t, exec (.evaluate hand) s = .next t ∧ t.handI = hand ∧
    t.matcher = matcherNets hand ∧ t.values = valueNets hand ∧
    t.rst = s.rst ∧ t.inValid = s.inValid ∧ t.settled = s.settled ∧ t.packed = s.packed ∧
    t.straightOut = s.straightOut ∧ t.hibitOut = s.hibitOut ∧ t.topkOut = s.topkOut ∧ t.pending = s.pending ∧
    t.latency = s.latency ∧ (s.stages = [] → t.stages = []) ∧
    (s.stages = [] → s.settled = true → t.draws = s.draws) ∧
    (t.outValid = some true → s.rst = false → t.draws = s.draws)

/-- R28: one rising edge with `rst = 0`: `st[0]` takes `in_valid` and the hand's value, which is CLASSIFY of a
well-formed hand, every other entry takes its predecessor, `out_valid` and, while it is 1, `value_o` are the last
entry's. -/
def Obligations.EvaluateShiftsTheWrapper : Prop :=
  ∀ (s : State) (hand : Word), s.stages ≠ [] → s.rst = false →
    ∃ t last, exec (.evaluate hand) s = .next t ∧ t.stages.length = s.stages.length ∧
      t.stages[0]? = some ⟨s.inValid, evaluateWord hand⟩ ∧
      (wellFormedHand hand = true → t.stages[0]? = some ⟨s.inValid, classify hand⟩) ∧
      (∀ k, k + 1 < s.stages.length → t.stages[k + 1]? = s.stages[k]?) ∧
      t.stages[s.stages.length - 1]? = some last ∧ t.outValid = some last.valid ∧
      (last.valid = true → t.valueO = last.val)

/-- R192, C7: with 2 to 4 distinct ranks the selection goes by the counts alone and with 5 to 7 by the ungated chain,
for any input; the gate changes a value only for an input that has an ace duplicate set without its Ace, so none of a
well-formed hand, whose `SFM`, `STM` and `LC[s] >= 5` are zero or false with `N <= 4`; five cards of one suit imply five
distinct ranks for any input; on the rule's stray-duplicate example the gated chain gives ONE_PAIR and the ungated one
STRAIGHT_FLUSH. -/
def Obligations.FiveRankGateIsHarmlessInContract : Prop :=
  let ungated (hand : Word) : Word :=
    ((selectFiveRanks (matcherNets hand)).getD (selectByCounts (matcherNets hand))).value
  (∀ hand : Word, 2 ≤ (matcherNets hand).n.toNat → (matcherNets hand).n.toNat ≤ 4 →
    classify hand = (selectByCounts (matcherNets hand)).value) ∧
  (∀ hand : Word, 5 ≤ (matcherNets hand).n.toNat → (matcherNets hand).n.toNat ≤ 7 → classify hand = ungated hand) ∧
  (∀ hand : Word, 2 ≤ (matcherNets hand).n.toNat → (matcherNets hand).n.toNat ≤ 7 →
    (∀ q : Suit, hand.getLsbD (16 * q.val) = true → hand.getLsbD (16 * q.val + 13) = true) →
    classify hand = ungated hand) ∧
  (∀ hand : Word, wellFormedHand hand = true → classify hand = ungated hand ∧
    ((matcherNets hand).n.toNat ≤ 4 → (matcherNets hand).sfm = 0 ∧ (matcherNets hand).stm = 0 ∧
      ∀ q : Suit, ¬ 5 ≤ ((matcherNets hand).lc.get q).toNat)) ∧
  (∀ (hand : Word) (q : Suit), 5 ≤ ((matcherNets hand).lc.get q).toNat → 5 ≤ (matcherNets hand).n.toNat) ∧
  classify 0x0000_001F_0000_0002 = 0x0000_0002_0002_001C ∧ ungated 0x0000_001F_0000_0002 = 0x0000_0100_0010_0000

/-- R209 (i) to (iv): the structural facts of well-formed hands. -/
def Obligations.StructuralFactsOfWellFormedHands : Prop :=
  ∀ hand : Word, wellFormedHand hand = true →
    let m := matcherNets hand
    let n := cardCount hand
    (2 ≤ m.n.toNat ∧ m.n.toNat ≤ n ∧ m.n.toNat ≤ 7) ∧
    (m.quads ≠ 0 → m.n.toNat ≤ 1 + (n - 4) ∧ m.n.toNat ≤ 4) ∧
    (1 ≤ popcount m.trips → m.pairs ≠ 0 → m.n.toNat ≤ 2 + (n - 5) ∧ m.n.toNat ≤ 4) ∧
    (2 ≤ popcount m.trips → m.n.toNat ≤ 3) ∧
    (m.n.toNat ≤ 4 → m.sfm = 0 ∧ m.stm = 0 ∧ ∀ q : Suit, (m.lc.get q).toNat < 5)

/-- R209, R13 (G1): every well-formed hand gets its standard category, tested on its cards in the standard order from
the strongest down, although R190 tests flush and straight before four of a kind and full house (the standard
categories: log 19). -/
def Obligations.WellFormedHandsGetTheirStandardCategory : Prop :=
  ∀ hand : Word, wellFormedHand hand = true →
    categoryCodeOf (classify hand) = (standardCategory hand).code.toNat

/-- R68: the properties of the value of every well-formed hand: its range, its one tag bit, its zero bits, `P` nonzero,
and `K` zero for exactly HIGH_CARD, STRAIGHT, FLUSH and STRAIGHT_FLUSH; the tag bit names the category read back. -/
def Obligations.ValueFormatOfWellFormedHands : Prop :=
  ∀ hand : Word, wellFormedHand hand = true →
    let v := classify hand
    0x0000_0001_0000_0000 ≤ v ∧ v < 0x0000_0200_0000_0000 ∧ v < 0xFFFF_FFFF_FFFF_FFFF ∧
    popcount (v.extractLsb' 32 9) = 1 ∧ v &&& 0xFFFF_FE00_C001_C001 = 0 ∧
    primaryOf v ≠ 0 ∧
    (kickersOf v = 0 ↔ categoryCodeOf v = 0 ∨ categoryCodeOf v = 4 ∨ categoryCodeOf v = 5 ∨ categoryCodeOf v = 8) ∧
    categoryCodeOf v ≤ 8 ∧ v.getLsbD (32 + categoryCodeOf v) = true

/-- R68, R202, R193: no well-formed hand is below 7-5-4-3-2 or above an Ace-high straight flush, and both values are
reached. -/
def Obligations.LowestAndHighestWellFormedValues : Prop :=
  (∀ hand : Word, wellFormedHand hand = true →
    0x0000_0001_005E_0000 ≤ classify hand ∧ classify hand ≤ 0x0000_0100_2000_0000) ∧
  (∃ hand : Word, wellFormedHand hand = true ∧ classify hand = 0x0000_0001_005E_0000) ∧
  (∃ hand : Word, wellFormedHand hand = true ∧ classify hand = 0x0000_0100_2000_0000)

/-- R153, R152: the category of a well-formed hand fixes how many ranks `P` and `K` hold, and the two never share
one. -/
def Obligations.CategoryFixesTheFieldSizes : Prop :=
  ∀ hand : Word, wellFormedHand hand = true →
    [(0, 5, 0), (1, 1, 3), (2, 2, 1), (3, 1, 2), (4, 1, 0), (5, 5, 0), (6, 1, 1), (7, 1, 1), (8, 1, 0)].contains
      (categoryCodeOf (classify hand), popcount (primaryOf (classify hand)), popcount (kickersOf (classify hand))) = true ∧
    primaryOf (classify hand) &&& kickersOf (classify hand) = 0

/-- R205, R13 (G1, G5): values of well-formed hands compare as the standard strengths of their best five cards do, and
are equal exactly for a tie (the standard strengths are those of log 19, PRESUMED). -/
def Obligations.ValuesOrderHandsByBestFiveCards : Prop :=
  ∀ h1 h2 : Word, wellFormedHand h1 = true → wellFormedHand h2 = true →
    (classify h2 < classify h1 ↔ bestFive h2 < bestFive h1) ∧ (classify h1 = classify h2 ↔ bestFive h1 = bestFive h2)

/-- R206: permuting the four lanes of a well-formed hand leaves its value unchanged, and the hand well-formed. -/
def Obligations.ValuesAreSuitSymmetric : Prop :=
  ∀ (σ : Equiv.Perm Suit) (hand : Word), wellFormedHand hand = true →
    wellFormedHand (permuteLanes σ hand) = true ∧ classify (permuteLanes σ hand) = classify hand

/-- R207: `value_o` of the settled combinational block depends on `hand_i` alone, for every input word: two machines in
any two states give the same value and nets for the same hand (out of contract by log 5). -/
def Obligations.ValueDependsOnTheHandAlone : Prop :=
  ∀ (s1 s2 : State) (hand : Word), s1.stages = [] → s2.stages = [] → s1.settled = true → s2.settled = true →
    ∃ t1 t2, exec (.evaluate hand) s1 = .next t1 ∧ exec (.evaluate hand) s2 = .next t2 ∧
      t1.valueO = t2.valueO ∧ t1.matcher = t2.matcher ∧ t1.values = t2.values

/-- R45: evaluating the same word again changes nothing and gives the same value. -/
def Obligations.EvaluationIsIdempotent : Prop :=
  ∀ (s : State) (hand : Word), s.stages = [] → s.settled = true →
    ∃ t, exec (.evaluate hand) s = .next t ∧ exec (.evaluate hand) t = .next t

/-- R46, R263: an evaluation leaves no trace in the next one: after evaluating `h1`, evaluating `h2` gives the very
state that evaluating `h2` alone gives. -/
def Obligations.EvaluationsDoNotInteract : Prop :=
  ∀ (s : State) (h1 h2 : Word), s.stages = [] → s.settled = true →
    ∃ t u, exec (.evaluate h1) s = .next t ∧ exec (.evaluate h2) t = .next u ∧ exec (.evaluate h2) s = .next u

/-- R71, R64, R191, R203, R204: the two conditions never overlap, so every 64-bit word falls into exactly one of the
three classes, and the value driven is CLASSIFY, the sentinel, or the free value of log 5. -/
def Obligations.InputClassesPartitionTheWords : Prop :=
  ∀ hand : Word,
    ¬(wellFormedHand hand = true ∧ sentinelCondition (matcherNets hand).n = true) ∧
    (inputClass hand = .inContract ↔ wellFormedHand hand = true) ∧
    (inputClass hand = .sentinel ↔ ¬(2 ≤ (matcherNets hand).n.toNat ∧ (matcherNets hand).n.toNat ≤ 7)) ∧
    (inputClass hand = .unspecified ↔
      wellFormedHand hand = false ∧ 2 ≤ (matcherNets hand).n.toNat ∧ (matcherNets hand).n.toNat ≤ 7) ∧
    (inputClass hand = .inContract → evaluateWord hand = classify hand) ∧
    (inputClass hand = .sentinel → evaluateWord hand = 0xFFFF_FFFF_FFFF_FFFF) ∧
    (inputClass hand = .unspecified → evaluateWord hand = Config.outOfContractValue hand)

/-- R266: the sentinel exceeds every well-formed hand's value under raw comparison, and a consumer that tests for it
first ranks exactly the pairs of real values: no pair in which either value is the sentinel, and every other pair. -/
def Obligations.ConsumerMustTestTheSentinelFirst : Prop :=
  ∀ (hand bad : Word), wellFormedHand hand = true → inputClass bad = .sentinel →
    evaluateWord hand < evaluateWord bad ∧ compareValues (evaluateWord bad) (evaluateWord hand) = none ∧
    compareValues (evaluateWord hand) (evaluateWord bad) = none ∧
    (∀ bad' : Word, inputClass bad' = .sentinel → compareValues (evaluateWord bad) (evaluateWord bad') = none) ∧
    ∀ other : Word, wellFormedHand other = true →
      compareValues (evaluateWord hand) (evaluateWord other) =
        some (compare (classify hand).toNat (classify other).toNat)

/-- R267: a well-formed hand with the ace duplicate of a held Ace cleared is out of contract and not on the sentinel
path, so it is not diagnosed: its value is any value (log 5). -/
def Obligations.MissingAceDuplicateIsNotDiagnosed : Prop :=
  ∀ (hand : Word) (q : Suit), wellFormedHand hand = true → hand.getLsbD (16 * q.val + 13) = true →
    inputClass (hand &&& ~~~((1 : Word) <<< (16 * q.val))) = .unspecified

/-- R70, R190, R171: performing the matcher's functions one after another, each on the nets the ones before it drove,
leaves the nets EVALUATE drives; for a well-formed hand, performing then the payload, tag and compose functions on the
selected category and masks leaves on the value net the word EVALUATE puts on `value_o`. -/
def Obligations.SubBlocksComposeToEvaluate : Prop :=
  ∀ (s : State) (hand : Word), s.stages = [] → s.settled = true →
    ∃ t, exec (.evaluate hand) s = .next t ∧
      (performAll s (matcherPass hand)).matcher = t.matcher ∧
      (wellFormedHand hand = true →
        let sel := select (performAll s (matcherPass hand)).matcher
        let u := performAll s (matcherPass hand ++
          [fun _ => .rePayload sel.p sel.k, fun _ => .ctTag sel.cat.code, fun _ => .ctCompose sel.cat.code sel.p sel.k])
        u.values.value = t.valueO ∧ u.values.payload = t.values.payload ∧ u.values.tag = t.values.tag ∧
          t.values.p = sel.p ∧ t.values.k = sel.k ∧ t.values.cat = sel.cat.code)

/-! PACK -/

/-- R100, R101: PACK completes in every state and writes only the adapter's word, in which every card of the mask sets
its bit, an Ace also its duplicate, and no other bit is set; so the card count is preserved. -/
def Obligations.PackPlacesEveryCard : Prop :=
  ∀ (m : CardMask) (s : State), ∃ t, exec (.pack m) s = .next t ∧ t = { s with packed := t.packed } ∧
    (∀ (rank : Nat) (q : Suit), 2 ≤ rank → rank ≤ 14 →
      t.packed.getLsbD (16 * q.val + rank - 1) = m.getLsbD (13 * q.val + rank - 2)) ∧
    (∀ q : Suit, t.packed.getLsbD (16 * q.val) = m.getLsbD (13 * q.val + 12) ∧
      t.packed.getLsbD (16 * q.val + 14) = false ∧ t.packed.getLsbD (16 * q.val + 15) = false) ∧
    cardCount t.packed = popcount m

/-- R102, R64: PACK is injective, its image is exactly the words that meet conditions (a) and (b), UNPACK inverts it
there, and a hand is well-formed iff it is PACK of a mask of 5, 6 or 7 cards. -/
def Obligations.PackIsInvertibleOntoItsImage : Prop :=
  (∀ m : CardMask, unpack (pack m) = m) ∧ Function.Injective pack ∧
  (∀ h : Word, (unusedClear h = true ∧ acesAgree h = true ↔ ∃ m, pack m = h) ∧
    (unusedClear h = true → acesAgree h = true → pack (unpack h) = h) ∧
    (wellFormedHand h = true ↔ ∃ m, pack m = h ∧ (popcount m = 5 ∨ popcount m = 6 ∨ popcount m = 7)))

/-- R60, R62, R73 (`EVAL [cards]`): the mask of a list of different cards, packed, holds exactly those cards. -/
def Obligations.PackedCardsReadBack : Prop :=
  ∀ cards : List Card, cards.Nodup → (∀ c ∈ cards, 2 ≤ c.rank ∧ c.rank ≤ 14) →
    (cardsOf (pack (maskOfCards cards))).Perm cards

/-! The bit_pattern_matcher -/

/-- R120: BPM_LANES writes the lanes `w` and `r`, and on its own nothing else (log 2, log 14): bit j of `w[s]` is bit
16s + j of the hand for j in 0..13, `r[s]` is `w[s]` without bit 0, and lane bits 15 and 14 are not read. -/
def Obligations.BpmLanesSplitsTheHand : Prop :=
  ∀ (hand : Word) (s : State), ∃ t, exec (.bpmLanes hand) s = .next t ∧
    t = { s with matcher := { s.matcher with w := t.matcher.w, r := t.matcher.r } } ∧
    (∀ (q : Suit) (j : Nat), j < 14 → (t.matcher.w.get q).getLsbD j = hand.getLsbD (16 * q.val + j)) ∧
    (∀ (q : Suit) (j : Nat), (t.matcher.r.get q).getLsbD j = (decide (1 ≤ j) && (t.matcher.w.get q).getLsbD j)) ∧
    ∀ unused : Word, exec (.bpmLanes (hand ^^^ (unused &&& 0xC000_C000_C000_C000))) s = .next t

/-- R121: BPM_PRESENCE writes OR14 and PRESENT, and on its own nothing else (log 2, log 14): a rank is in OR14 iff some
lane holds it, and PRESENT is OR14 without bit 0; for a well-formed hand OR14[0] = OR14[13]. -/
def Obligations.BpmPresenceUnitesTheLanes : Prop :=
  ∀ (w : PerSuit Mask) (s : State), ∃ t, exec (.bpmPresence w) s = .next t ∧
    t = { s with matcher := { s.matcher with or14 := t.matcher.or14, present := t.matcher.present } } ∧
    (∀ j : Nat, t.matcher.or14.getLsbD j = true ↔ ∃ q : Suit, (w.get q).getLsbD j = true) ∧
    (∀ j : Nat, t.matcher.present.getLsbD j = (decide (1 ≤ j) && t.matcher.or14.getLsbD j)) ∧
    (∀ hand : Word, wellFormedHand hand = true → w = straightLanes hand →
      t.matcher.or14.getLsbD 0 = t.matcher.or14.getLsbD 13)

/-- R122: BPM_QUADS writes QUADS, and on its own nothing else (log 2, log 14): a rank is in it iff all four lanes hold
it; bit 0 is clear unless all four lanes have it set, which the lanes `r` of a hand never do, and is then any value (log
20); a well-formed hand sets at most one bit. -/
def Obligations.BpmQuadsIntersectsTheLanes : Prop :=
  ∀ (r : PerSuit Mask) (s : State), ∃ t, exec (.bpmQuads r) s = .next t ∧
    t = { s with matcher := { s.matcher with quads := t.matcher.quads } } ∧
    (∀ j : Nat, 1 ≤ j → (t.matcher.quads.getLsbD j = true ↔ ∀ q : Suit, (r.get q).getLsbD j = true)) ∧
    t.matcher.quads.getLsbD 0 =
      (if ∀ q : Suit, (r.get q).getLsbD 0 = true then Config.freeQuadsBit r else false) ∧
    (∀ hand : Word, r = rankLanes hand → t.matcher.quads.getLsbD 0 = false) ∧
    (∀ hand : Word, r = rankLanes hand → wellFormedHand hand = true → popcount t.matcher.quads ≤ 1)

/-- R123: BPM_DISTINCT writes N, and on its own nothing else (log 2, log 14): the number of ranks present, so for the
PRESENT of a hand the number of ranks some suit holds, the ace duplicates not counted; any value in 0..13 for a mask
that has their bit 0 set (log 20); for a well-formed hand N is in 2..7, and N outside 2..7 is the sentinel's
condition. -/
def Obligations.BpmDistinctCountsTheRanks : Prop :=
  ∀ (present : Mask) (s : State), ∃ t, exec (.bpmDistinct present) s = .next t ∧
    t = { s with matcher := { s.matcher with n := t.matcher.n } } ∧ t.matcher.n.toNat ≤ 13 ∧
    t.matcher.n.toNat =
      (if present.getLsbD 0 = true then (Config.freeDistinct present).val
       else (Finset.univ.filter fun j : Fin 14 => present.getLsbD j.val = true).card) ∧
    (∀ hand : Word, present = (matcherNets hand).present →
      t.matcher.n.toNat =
        (List.range 13).countP (fun j => (List.finRange 4).any fun q => hand.getLsbD (16 * q.val + (j + 1)))) ∧
    (sentinelCondition t.matcher.n = true ↔ t.matcher.n.toNat < 2 ∨ 7 < t.matcher.n.toNat) ∧
    (∀ hand : Word, wellFormedHand hand = true → present = (matcherNets hand).present →
      2 ≤ t.matcher.n.toNat ∧ t.matcher.n.toNat ≤ 7)

/-- R124: BPM_SUITCOUNT writes LC, and on its own nothing else (log 2, log 14): the number of ranks each lane holds; for
a lane with bit 0 set, which the lanes `r` of a hand never have, any value in 0..13 (log 20); a well-formed hand has at
most one lane with five or more. -/
def Obligations.BpmSuitcountCountsEachLane : Prop :=
  ∀ (r : PerSuit Mask) (s : State), ∃ t, exec (.bpmSuitcount r) s = .next t ∧
    t = { s with matcher := { s.matcher with lc := t.matcher.lc } } ∧
    (∀ q : Suit, (t.matcher.lc.get q).toNat ≤ 13 ∧ (t.matcher.lc.get q).toNat =
      (if (r.get q).getLsbD 0 = true then (Config.freeSuitcount q (r.get q)).val
       else (Finset.univ.filter fun j : Fin 14 => (r.get q).getLsbD j.val = true).card)) ∧
    (∀ hand : Word, wellFormedHand hand = true → r = rankLanes hand →
      ∀ q q' : Suit, 5 ≤ (t.matcher.lc.get q).toNat → 5 ≤ (t.matcher.lc.get q').toNat → q = q')

/-- R125: BPM_STRAIGHT writes a result of its own and nothing else (log 2, log 14): bit j is set iff bits j-4..j of the
mask are all set, so only bits 13..4 can be; an Ace does not wrap from the King into the 2, and a wheel without its ace
duplicate is not found. -/
def Obligations.BpmStraightMarksEveryHighCard : Prop :=
  ∀ (m : Mask) (s : State), ∃ t, exec (.bpmStraight m) s = .next t ∧
    t = { s with straightOut := t.straightOut } ∧
    (∀ j : Nat, t.straightOut.getLsbD j = true ↔ 4 ≤ j ∧ j ≤ 13 ∧ ∀ d : Nat, d ≤ 4 → m.getLsbD (j - d) = true) ∧
    (m = 0 ∨ m = 0x3807 ∨ m = 0x201E → t.straightOut = 0) ∧ (m = 0x3EFE → t.straightOut = 0x20E0)

/-- R126, D24: BPM_SFDETECT writes SFM, and on its own nothing else (log 2, log 14): bit j is set iff some lane holds
five consecutive ranks with high card j; for a hand with lane bits 15 and 14 clear this is the whole-word detector with
its index taken modulo 16, and in a well-formed hand at most one lane holds a straight flush. -/
def Obligations.BpmSfdetectUnitesTheLanesStraights : Prop :=
  ∀ (w : PerSuit Mask) (s : State), ∃ t, exec (.bpmSfdetect w) s = .next t ∧
    t = { s with matcher := { s.matcher with sfm := t.matcher.sfm } } ∧
    (∀ j : Nat, t.matcher.sfm.getLsbD j = true ↔
      ∃ q : Suit, 4 ≤ j ∧ j ≤ 13 ∧ ∀ d : Nat, d ≤ 4 → (w.get q).getLsbD (j - d) = true) ∧
    (∀ hand : Word, w = straightLanes hand → unusedClear hand = true →
      ∀ j : Nat, j < 16 → t.matcher.sfm.getLsbD j = someLaneBit (wholeWordStraight hand) j) ∧
    (∀ hand : Word, w = straightLanes hand → wellFormedHand hand = true →
      ∀ q q' : Suit, straightMask (w.get q) ≠ 0 → straightMask (w.get q') ≠ 0 → q = q')

/-- R127: BPM_STDETECT writes STM, and on its own nothing else (log 2, log 14): bit j is set iff OR14 holds five
consecutive bits up to j, the ace duplicate at bit 0 included, whatever the suits; so a wheel of mixed suits is
found. -/
def Obligations.BpmStdetectIgnoresSuits : Prop :=
  ∀ (or14 : Mask) (s : State), ∃ t, exec (.bpmStdetect or14) s = .next t ∧
    t = { s with matcher := { s.matcher with stm := t.matcher.stm } } ∧
    (∀ j : Nat, t.matcher.stm.getLsbD j = true ↔ 4 ≤ j ∧ j ≤ 13 ∧ ∀ d : Nat, d ≤ 4 → or14.getLsbD (j - d) = true) ∧
    (or14 &&& 0x1F = 0x1F → t.matcher.stm.getLsbD 4 = true)

/-- R128: BPM_TALLY writes SINGLES, PAIRS and TRIPS, and on its own nothing else (log 2, log 14): rank j of 1..13 is in
the one whose number of lanes holds it; bit 0 is clear, whatever bit 0 of the lanes; with QUADS the three are disjoint
and unite to PRESENT; a well-formed hand has at most two trips and three pairs. -/
def Obligations.BpmTallyPartitionsTheRanks : Prop :=
  ∀ (r : PerSuit Mask) (s : State), ∃ t, exec (.bpmTally r) s = .next t ∧
    t = { s with matcher := { s.matcher with
      singles := t.matcher.singles, pairs := t.matcher.pairs, trips := t.matcher.trips } } ∧
    (∀ j : Nat, 1 ≤ j → j ≤ 13 →
      let held := (Finset.univ.filter fun q : Suit => (r.get q).getLsbD j = true).card
      (t.matcher.singles.getLsbD j = true ↔ held = 1) ∧ (t.matcher.pairs.getLsbD j = true ↔ held = 2) ∧
        (t.matcher.trips.getLsbD j = true ↔ held = 3) ∧ ((quadRanks r).getLsbD j = true ↔ held = 4)) ∧
    t.matcher.singles.getLsbD 0 = false ∧ t.matcher.pairs.getLsbD 0 = false ∧ t.matcher.trips.getLsbD 0 = false ∧
    (∀ hand : Word, r = rankLanes hand →
      t.matcher.singles ||| t.matcher.pairs ||| t.matcher.trips ||| quadRanks r = (matcherNets hand).present ∧
      t.matcher.singles &&& t.matcher.pairs = 0 ∧ t.matcher.singles &&& t.matcher.trips = 0 ∧
      t.matcher.pairs &&& t.matcher.trips = 0 ∧
      (t.matcher.singles ||| t.matcher.pairs ||| t.matcher.trips) &&& quadRanks r = 0) ∧
    (∀ hand : Word, r = rankLanes hand → wellFormedHand hand = true →
      popcount t.matcher.trips ≤ 2 ∧ popcount t.matcher.pairs ≤ 3)

/-- R129: the bit-parallel formulas give the per-rank tally and the quad mask, for lanes of real ranks. -/
def Obligations.BitParallelTallyEqualsThePerRankForm : Prop :=
  ∀ r : PerSuit Mask, r.all realRanks = true → bitParallelTally r = tallyOf r ∧ bitParallelQuads r = quadRanks r

/-! The rank_encoder -/

/-- R150: RE_HIBIT writes a result of its own and nothing else (log 2, log 14): zero for the zero mask, else the bit of
the highest rank alone; a one-bit mask is kept. -/
def Obligations.ReHibitKeepsTheHighestRank : Prop :=
  ∀ (m : Mask) (s : State), ∃ t, exec (.reHibit m) s = .next t ∧ t = { s with hibitOut := t.hibitOut } ∧
    (m = 0 → t.hibitOut = 0) ∧
    (∀ j : Nat, m.getLsbD j = true → (∀ i : Nat, j < i → m.getLsbD i = false) → t.hibitOut = BitVec.twoPow 14 j) ∧
    (m ≠ 0 → ∃ j : Nat, t.hibitOut = BitVec.twoPow 14 j ∧ m.getLsbD j = true) ∧
    (popcount m = 1 → t.hibitOut = m)

/-- R151: RE_TOPK writes a result of its own and nothing else (log 2, log 14): for a count of at most 5 it keeps the
min(k, popcount) highest set bits and clears the rest, so a mask of at most k bits is kept whole (the spec's uses are 1,
2, 3 and 5, the others by the same rule: log 13); for 6 and 7, which the opcode table rules out, any mask (log 20). -/
def Obligations.ReTopkKeepsTheHighestRanks : Prop :=
  ∀ (m : Mask) (k : BitVec 3) (s : State), ∃ t, exec (.reTopk m k) s = .next t ∧ t = { s with topkOut := t.topkOut } ∧
    (k.toNat ≤ 5 →
      (∀ j : Nat, t.topkOut.getLsbD j = true → m.getLsbD j = true) ∧
      popcount t.topkOut = min k.toNat (popcount m) ∧
      (∀ i j : Nat, t.topkOut.getLsbD i = true → m.getLsbD j = true → t.topkOut.getLsbD j = false → j < i) ∧
      (popcount m ≤ k.toNat → t.topkOut = m) ∧ (k = 0 → t.topkOut = 0)) ∧
    (5 < k.toNat → t.topkOut = Config.freeTopk m k)

/-- R152, R65: RE_PAYLOAD writes the payload, and on its own nothing else (log 2, log 14): `P` in bits 29..16, `K` in
bits 13..0, and bits 31..30 and 15..14 zero; bits 16 and 0 are zero when neither mask has bit 0. -/
def Obligations.RePayloadPlacesBothMasks : Prop :=
  ∀ (p k : Mask) (s : State), ∃ t, exec (.rePayload p k) s = .next t ∧
    t = { s with values := { s.values with payload := t.values.payload } } ∧
    t.values.payload.extractLsb' 16 14 = p ∧ t.values.payload.extractLsb' 0 14 = k ∧
    t.values.payload &&& 0xC000_C000 = 0 ∧
    (realRanks p = true → realRanks k = true → t.values.payload &&& 0x0001_0001 = 0)

/-- R153: for rank masks with equally many set bits, unsigned order is the lexicographic order of their ranks from the
highest down, and equality is equality of those lists. -/
def Obligations.MaskOrderIsRankOrder : Prop :=
  ∀ a b : Mask, popcount a = popcount b →
    (a < b ↔ indicesDown a < indicesDown b) ∧ (a = b ↔ indicesDown a = indicesDown b)

/-! The category_tagger -/

/-- R170, R66: CT_TAG writes TAG, and on its own nothing else (log 2, log 14): for a category code 0..8 the one bit 32 +
cat, within bits 40..32, as in the table of R66; a stronger category has the larger tag, and every tag exceeds every
payload; for the codes 9..15, which never occur (log 13), any word (log 20). -/
def Obligations.CtTagIsOneHotAndRising : Prop :=
  ∀ (cat : Nibble) (s : State), ∃ t, exec (.ctTag cat) s = .next t ∧
    t = { s with values := { s.values with tag := t.values.tag } } ∧
    (cat.toNat ≤ 8 →
      (∀ j : Nat, t.values.tag.getLsbD j = true ↔ j = 32 + cat.toNat) ∧
      t.values.tag &&& 0xFFFF_FE00_FFFF_FFFF = 0 ∧
      (∀ stronger : Nibble, cat < stronger → stronger.toNat ≤ 8 →
        ∃ u, exec (.ctTag stronger) s = .next u ∧ t.values.tag < u.values.tag) ∧
      (∀ p k : Mask, (payloadOf p k).setWidth 64 < t.values.tag)) ∧
    (8 < cat.toNat → t.values.tag = Config.freeTag cat)

/-- R171, R65: CT_COMPOSE writes the value, and on its own nothing else (log 2, log 14): for a category code 0..8 the
tag in bits 40..32, `P` in bits 29..16, `K` in bits 13..0, all other bits zero; tag and payload do not overlap, so
joining them is adding them; for the codes 9..15, which never occur (log 13), the payload is joined with a tag that is
any word (log 20). -/
def Obligations.CtComposeJoinsTagAndPayload : Prop :=
  ∀ (cat : Nibble) (p k : Mask) (s : State), ∃ t, exec (.ctCompose cat p k) s = .next t ∧
    t = { s with values := { s.values with value := t.values.value } } ∧
    (cat.toNat ≤ 8 →
      primaryOf t.values.value = p ∧ kickersOf t.values.value = k ∧ categoryCodeOf t.values.value = cat.toNat ∧
      t.values.value &&& 0xFFFF_FE00_C000_C000 = 0 ∧ popcount (t.values.value.extractLsb' 32 9) = 1 ∧
      t.values.value = tagOf cat + (payloadOf p k).setWidth 64) ∧
    (8 < cat.toNat → t.values.value = Config.freeTag cat ||| (payloadOf p k).setWidth 64)

/-- R172: a higher category code gives a higher value, whatever the payloads; with equal codes the values compare as the
pairs of masks do, lexicographically. -/
def Obligations.CategoryDecidesThenPayload : Prop :=
  ∀ (c1 c2 : Nibble) (p1 k1 p2 k2 : Mask),
    (c2 < c1 → valueOf c2 p2 k2 < valueOf c1 p1 k1) ∧
    (c1 = c2 → (valueOf c2 p2 k2 < valueOf c1 p1 k1 ↔ p2 < p1 ∨ p2 = p1 ∧ k2 < k1) ∧
      (valueOf c1 p1 k1 = valueOf c2 p2 k2 ↔ p1 = p2 ∧ k1 = k2))

/-! Forms only well-formed instructions keep -/

/-- R27, R65, R66, R151: a step that performs a well-formed instruction keeps bit 0 of `QUADS` clear, at most five ranks
in a TOPK, and one of nine tags, alone and above a payload; the others may leave free values there (log 2, log 20). -/
def Obligations.WellFormedStepsKeepTheNarrowForms : Prop :=
  ∀ (s t s' : State) (i : Instr), NarrowForm s → s.fetch = .ok (i, s') → i.WellFormed → step s = .next t → NarrowForm t
end

