-- ==== Sys2Proof/Laws/Datapath.lean ====
section
/-! SUPPORT. What the combinational functions do, bit by bit or by case, said once, so that no later proof unfolds them. -/

namespace Sys2Proof.Machine

/-! Lanes -/

@[simp] theorem perSuit_get_ofFn {α : Type} (f : Suit → α) (q : Suit) : (PerSuit.ofFn f).get q = f q := by
  fin_cases q <;> rfl

@[simp] theorem perSuit_get_map {α β : Type} (f : α → β) (x : PerSuit α) (q : Suit) :
    (x.map f).get q = f (x.get q) := by
  fin_cases q <;> rfl

theorem getLsbD_laneBits (hand : Word) (q : Suit) (j : Nat) :
    (laneBits hand q).getLsbD j = (decide (j < 14) && hand.getLsbD (16 * q.val + j)) := by
  simp [laneBits]

theorem getLsbD_laneRanks (j : Nat) : laneRanks.getLsbD j = (decide (1 ≤ j) && decide (j < 14)) := by
  by_cases h : j < 14
  · interval_cases j <;> decide
  · simp [h, BitVec.getLsbD_of_ge laneRanks j (by omega)]

theorem getLsbD_orLanes (w : PerSuit Mask) (j : Nat) :
    (orLanes w).getLsbD j = true ↔ ∃ q : Suit, (w.get q).getLsbD j = true := by
  simp [orLanes, Fin.exists_fin_succ, PerSuit.get, or_assoc]

theorem getLsbD_quadRanks (r : PerSuit Mask) (j : Nat) :
    (quadRanks r).getLsbD j = true ↔ ∀ q : Suit, (r.get q).getLsbD j = true := by
  simp [quadRanks, Fin.forall_fin_succ, PerSuit.get, and_assoc]

/-! The Encoding Adapter -/

/-- PACK's first step bit by bit: bit `16q + j` is bit `13q + j` of the mask, for `j` below 13. -/
theorem getLsbD_spreadChunks (m : CardMask) (i : Nat) (h : i < 64) :
    (spreadChunks m).getLsbD i = (decide (i % 16 < 13) && m.getLsbD (13 * (i / 16) + i % 16)) := by
  interval_cases i <;> simp [spreadChunks, chunk]

/-! Counts -/

theorem popcount_le {n : Nat} (v : BitVec n) : popcount v ≤ n := by
  simpa [popcount] using List.countP_le_length (p := fun i => v.getLsbD i) (l := List.range n)

theorem countNet_toNat (m : Mask) : (countNet m).toNat = popcount m := by
  have := popcount_le m
  simp only [countNet, BitVec.toNat_ofNat]
  omega

theorem getLsbD_ranksHeld (r : PerSuit Mask) (c j : Nat) :
    (ranksHeld r c).getLsbD j = (decide (1 ≤ j) && decide (j < 14) && rankCount r j == c) := by
  by_cases h : j < 14 <;> simp [ranksHeld, BitVec.getLsbD_ofFnLE, h]

/-! The straight detector -/

theorem getLsbD_straightMask (m : Mask) (j : Nat) :
    (straightMask m).getLsbD j =
      (decide (4 ≤ j) && (m.getLsbD j && m.getLsbD (j - 1) && m.getLsbD (j - 2) && m.getLsbD (j - 3) &&
        m.getLsbD (j - 4))) := by
  by_cases hj : j < 14
  · by_cases h4 : 4 ≤ j
    · simp [straightMask, hj, h4, show ¬ j < 1 by omega, show ¬ j < 2 by omega, show ¬ j < 3 by omega,
        show ¬ j < 4 by omega, BitVec.getLsbD_eq_getElem, show j - 1 < 14 by omega, show j - 2 < 14 by omega, show j - 3 < 14 by omega,
        show j - 4 < 14 by omega]
    · simp [straightMask, hj, h4, show j < 4 by omega]
  · simp [BitVec.getLsbD_of_ge _ j (show 14 ≤ j by omega)]

/-! The highest bit -/

/-- What the search for the highest set bit below a bound can answer. -/
theorem highestSetBelow_cases (m : Mask) (bound : Nat) :
    (highestSetBelow m bound = none ∧ ∀ i < bound, m.getLsbD i = false) ∨
    (∃ j < bound, highestSetBelow m bound = some j ∧ m.getLsbD j = true ∧
      ∀ i, j < i → i < bound → m.getLsbD i = false) := by
  induction bound with
  | zero => simp [highestSetBelow]
  | succ b ih =>
    by_cases hb : m.getLsbD b = true
    · exact .inr ⟨b, by omega, by simp [highestSetBelow, hb], hb, fun i h1 h2 => by omega⟩
    · rw [Bool.not_eq_true] at hb
      have hstep : highestSetBelow m (b + 1) = highestSetBelow m b := by simp [highestSetBelow, hb]
      have htop : ∀ i, i < b + 1 → (i < b → m.getLsbD i = false) → m.getLsbD i = false := by
        intro i hi h
        rcases Nat.lt_succ_iff_lt_or_eq.mp hi with h' | rfl
        · exact h h'
        · exact hb
      rcases ih with ⟨hn, hall⟩ | ⟨j, hj, hs, hm, hup⟩
      · exact .inl ⟨hstep.trans hn, fun i hi => htop i hi (hall i)⟩
      · exact .inr ⟨j, by omega, hstep.trans hs, hm, fun i h1 h2 => htop i h2 (hup i h1)⟩

/-- What `HIBIT` can answer (R150). -/
theorem hibit_cases (m : Mask) :
    (m = 0 ∧ hibit m = 0) ∨
    (∃ j < 14, hibit m = BitVec.twoPow 14 j ∧ m.getLsbD j = true ∧ ∀ i, j < i → m.getLsbD i = false) := by
  rcases highestSetBelow_cases m 14 with ⟨hn, hall⟩ | ⟨j, hj, hs, hm, hup⟩
  · refine .inl ⟨?_, by simp [hibit, hn]⟩
    apply BitVec.eq_of_getLsbD_eq
    intro i hi
    simpa using hall i hi
  · refine .inr ⟨j, hj, ?_, hm, fun i hi => ?_⟩
    · simp [hibit, hs, BitVec.twoPow]
    · by_cases h : i < 14
      · exact hup i hi h
      · exact BitVec.getLsbD_of_ge m i (by omega)

/-! Functions performed on their own: where the spec states the result, it is the datapath's (log 20) -/

/-- Without the ace duplicate a mask holds at most 13 ranks. -/
theorem popcount_le_of_real (m : Mask) (h : realRanks m = true) : popcount m ≤ 13 := by
  have h0 : ¬ m.getLsbD 0 = true := by simpa only [realRanks, Bool.not_eq_true', Bool.not_eq_true] using h
  rw [popcount, show List.range 14 = 0 :: List.range' 1 13 from rfl, List.countP_cons_of_neg h0]
  simpa using List.countP_le_length (p := fun i => m.getLsbD i) (l := List.range' 1 13)

theorem distinctNet_of_real (present : Mask) (h : realRanks present = true) : distinctNet present = countNet present := by
  simp [distinctNet, h]

theorem suitcountNets_of_real (r : PerSuit Mask) (h : r.all realRanks = true) : suitcountNets r = r.map countNet := by
  simp only [PerSuit.all, Bool.and_eq_true] at h
  simp [suitcountNets, suitcountNet, PerSuit.ofFn, PerSuit.map, PerSuit.get, h]

/-- A count is within 0..13 whatever the operand (R123, R124). -/
theorem distinctNet_le (present : Mask) : (distinctNet present).toNat ≤ 13 := by
  unfold distinctNet
  split
  · next h => rw [countNet_toNat]; exact popcount_le_of_real present h
  · simp only [BitVec.toNat_ofNat]; omega

theorem suitcountNet_le (q : Suit) (lane : Mask) : (suitcountNet q lane).toNat ≤ 13 := by
  unfold suitcountNet
  split
  · next h => rw [countNet_toNat]; exact popcount_le_of_real lane h
  · simp only [BitVec.toNat_ofNat]; omega

@[simp] theorem suitcountNets_get (r : PerSuit Mask) (q : Suit) :
    (suitcountNets r).get q = suitcountNet q (r.get q) := perSuit_get_ofFn _ q

/-- The two things BPM_QUADS can write. -/
theorem quadsNet_cases (r : PerSuit Mask) :
    (realRanks (quadRanks r) = true ∧ quadsNet r = quadRanks r) ∨
    (realRanks (quadRanks r) = false ∧
      quadsNet r = (quadRanks r &&& laneRanks) ||| (BitVec.ofBool (Config.freeQuadsBit r)).setWidth 14) := by
  cases h : realRanks (quadRanks r) <;> simp [quadsNet, h]

theorem quadsNet_of_real (r : PerSuit Mask) (h : r.all realRanks = true) : quadsNet r = quadRanks r := by
  have h0 : realRanks (quadRanks r) = true := by
    simp only [PerSuit.all, Bool.and_eq_true, realRanks, Bool.not_eq_true'] at h
    simp only [realRanks, quadRanks, BitVec.getLsbD_and, h, Bool.and_self, Bool.not_false]
  simp [quadsNet, h0]

theorem topkNet_of_le (m : Mask) (k : BitVec 3) (h : k.toNat ≤ 5) : topkNet m k = topk m k.toNat := by
  simp [topkNet, h]

theorem tagNet_of_le (cat : Nibble) (h : cat.toNat ≤ 8) : tagNet cat = tagOf cat := by
  simp [tagNet, h]

theorem composeNet_of_le (cat : Nibble) (p k : Mask) (h : cat.toNat ≤ 8) : composeNet cat p k = valueOf cat p k := by
  simp [composeNet, valueOf, tagNet_of_le cat h]

/-- The lanes `r` of any hand are lanes of real ranks. -/
theorem rankLanes_real (hand : Word) : (rankLanes hand).all realRanks = true := by
  simp only [rankLanes, PerSuit.map, PerSuit.all, realRanks, BitVec.getLsbD_and, getLsbD_laneRanks]
  simp

theorem presentRanks_real (w : PerSuit Mask) : realRanks (presentRanks w) = true := by
  simp only [presentRanks, realRanks, BitVec.getLsbD_and, getLsbD_laneRanks]
  simp

@[simp] theorem topk_zero (m : Mask) : topk m 0 = 0 := rfl

theorem topk_succ (m : Mask) (k : Nat) : topk m (k + 1) = hibit m ||| topk (m &&& ~~~hibit m) k := rfl

/-! Input classes and the driven value (R71) -/

/-- The three classes, each with the value the block drives. -/
theorem evaluateWord_cases (hand : Word) :
    (sentinelCondition (matcherNets hand).n = true ∧ inputClass hand = .sentinel ∧ evaluateWord hand = sentinel) ∨
    (sentinelCondition (matcherNets hand).n = false ∧ wellFormedHand hand = true ∧ inputClass hand = .inContract ∧
      evaluateWord hand = (select (matcherNets hand)).value) ∨
    (sentinelCondition (matcherNets hand).n = false ∧ wellFormedHand hand = false ∧ inputClass hand = .unspecified ∧
      evaluateWord hand = Config.outOfContractValue hand) := by
  cases hs : sentinelCondition (matcherNets hand).n <;> cases hw : wellFormedHand hand <;>
    simp [evaluateWord, inputClass, classify, hs, hw]

theorem classify_of_not_sentinel (hand : Word) (h : sentinelCondition (matcherNets hand).n = false) :
    classify hand = (select (matcherNets hand)).value := by
  simp [classify, h]

end Sys2Proof.Machine
end

