-- ==== Sys2Proof/Laws/State.lean ====
section
/-! SUPPORT. What each named update of the state writes and what it leaves: one lemma per field per update. -/

namespace Sys2Proof.Machine

@[simp] theorem State.driveHand_handI (s : State) (hand : Word) : (s.driveHand hand).handI = hand := rfl
@[simp] theorem State.driveHand_valueO (s : State) (hand : Word) : (s.driveHand hand).valueO = s.valueO := rfl
@[simp] theorem State.driveHand_rst (s : State) (hand : Word) : (s.driveHand hand).rst = s.rst := rfl
@[simp] theorem State.driveHand_inValid (s : State) (hand : Word) : (s.driveHand hand).inValid = s.inValid := rfl
@[simp] theorem State.driveHand_settled (s : State) (hand : Word) : (s.driveHand hand).settled = s.settled := rfl
@[simp] theorem State.driveHand_stages (s : State) (hand : Word) : (s.driveHand hand).stages = s.stages := rfl
@[simp] theorem State.driveHand_matcher (s : State) (hand : Word) : (s.driveHand hand).matcher = matcherNets hand := rfl
@[simp] theorem State.driveHand_values (s : State) (hand : Word) : (s.driveHand hand).values = valueNets hand := rfl
@[simp] theorem State.driveHand_straightOut (s : State) (hand : Word) : (s.driveHand hand).straightOut = s.straightOut := rfl
@[simp] theorem State.driveHand_hibitOut (s : State) (hand : Word) : (s.driveHand hand).hibitOut = s.hibitOut := rfl
@[simp] theorem State.driveHand_topkOut (s : State) (hand : Word) : (s.driveHand hand).topkOut = s.topkOut := rfl
@[simp] theorem State.driveHand_packed (s : State) (hand : Word) : (s.driveHand hand).packed = s.packed := rfl
@[simp] theorem State.driveHand_pending (s : State) (hand : Word) : (s.driveHand hand).pending = s.pending := rfl
@[simp] theorem State.driveHand_draws (s : State) (hand : Word) : (s.driveHand hand).draws = s.draws := rfl

@[simp] theorem State.clockEdge_handI (s : State) : s.clockEdge.handI = s.handI := rfl
@[simp] theorem State.clockEdge_valueO (s : State) : s.clockEdge.valueO = s.valueO := rfl
@[simp] theorem State.clockEdge_rst (s : State) : s.clockEdge.rst = s.rst := rfl
@[simp] theorem State.clockEdge_inValid (s : State) : s.clockEdge.inValid = s.inValid := rfl
@[simp] theorem State.clockEdge_settled (s : State) : s.clockEdge.settled = s.settled := rfl
@[simp] theorem State.clockEdge_stages (s : State) : s.clockEdge.stages = s.stagesAfterEdge := rfl
@[simp] theorem State.clockEdge_matcher (s : State) : s.clockEdge.matcher = s.matcher := rfl
@[simp] theorem State.clockEdge_values (s : State) : s.clockEdge.values = s.values := rfl
@[simp] theorem State.clockEdge_straightOut (s : State) : s.clockEdge.straightOut = s.straightOut := rfl
@[simp] theorem State.clockEdge_hibitOut (s : State) : s.clockEdge.hibitOut = s.hibitOut := rfl
@[simp] theorem State.clockEdge_topkOut (s : State) : s.clockEdge.topkOut = s.topkOut := rfl
@[simp] theorem State.clockEdge_packed (s : State) : s.clockEdge.packed = s.packed := rfl
@[simp] theorem State.clockEdge_pending (s : State) : s.clockEdge.pending = s.pending := rfl
@[simp] theorem State.clockEdge_draws (s : State) : s.clockEdge.draws = if s.rst then s.draws + s.stages.length else s.draws := rfl

@[simp] theorem State.sampleOutput_handI (s : State) : s.sampleOutput.handI = s.handI := rfl
@[simp] theorem State.sampleOutput_valueO (s : State) : s.sampleOutput.valueO = s.sampledWord.1 := rfl
@[simp] theorem State.sampleOutput_rst (s : State) : s.sampleOutput.rst = s.rst := rfl
@[simp] theorem State.sampleOutput_inValid (s : State) : s.sampleOutput.inValid = s.inValid := rfl
@[simp] theorem State.sampleOutput_settled (s : State) : s.sampleOutput.settled = s.settled := rfl
@[simp] theorem State.sampleOutput_stages (s : State) : s.sampleOutput.stages = s.stages := rfl
@[simp] theorem State.sampleOutput_matcher (s : State) : s.sampleOutput.matcher = s.matcher := rfl
@[simp] theorem State.sampleOutput_values (s : State) : s.sampleOutput.values = s.values := rfl
@[simp] theorem State.sampleOutput_straightOut (s : State) : s.sampleOutput.straightOut = s.straightOut := rfl
@[simp] theorem State.sampleOutput_hibitOut (s : State) : s.sampleOutput.hibitOut = s.hibitOut := rfl
@[simp] theorem State.sampleOutput_topkOut (s : State) : s.sampleOutput.topkOut = s.topkOut := rfl
@[simp] theorem State.sampleOutput_packed (s : State) : s.sampleOutput.packed = s.packed := rfl
@[simp] theorem State.sampleOutput_pending (s : State) : s.sampleOutput.pending = s.pending := rfl
@[simp] theorem State.sampleOutput_draws (s : State) : s.sampleOutput.draws = s.draws + s.sampledWord.2.toNat := rfl

@[simp] theorem State.setMatcher_handI (s : State) (m : MatcherNets) : (s.setMatcher m).handI = s.handI := rfl
@[simp] theorem State.setMatcher_valueO (s : State) (m : MatcherNets) : (s.setMatcher m).valueO = s.valueO := rfl
@[simp] theorem State.setMatcher_rst (s : State) (m : MatcherNets) : (s.setMatcher m).rst = s.rst := rfl
@[simp] theorem State.setMatcher_inValid (s : State) (m : MatcherNets) : (s.setMatcher m).inValid = s.inValid := rfl
@[simp] theorem State.setMatcher_settled (s : State) (m : MatcherNets) : (s.setMatcher m).settled = s.settled := rfl
@[simp] theorem State.setMatcher_stages (s : State) (m : MatcherNets) : (s.setMatcher m).stages = s.stages := rfl
@[simp] theorem State.setMatcher_matcher (s : State) (m : MatcherNets) : (s.setMatcher m).matcher = m := rfl
@[simp] theorem State.setMatcher_values (s : State) (m : MatcherNets) : (s.setMatcher m).values = s.values := rfl
@[simp] theorem State.setMatcher_straightOut (s : State) (m : MatcherNets) : (s.setMatcher m).straightOut = s.straightOut := rfl
@[simp] theorem State.setMatcher_hibitOut (s : State) (m : MatcherNets) : (s.setMatcher m).hibitOut = s.hibitOut := rfl
@[simp] theorem State.setMatcher_topkOut (s : State) (m : MatcherNets) : (s.setMatcher m).topkOut = s.topkOut := rfl
@[simp] theorem State.setMatcher_packed (s : State) (m : MatcherNets) : (s.setMatcher m).packed = s.packed := rfl
@[simp] theorem State.setMatcher_pending (s : State) (m : MatcherNets) : (s.setMatcher m).pending = s.pending := rfl
@[simp] theorem State.setMatcher_draws (s : State) (m : MatcherNets) : (s.setMatcher m).draws = s.draws := rfl

@[simp] theorem State.setValues_handI (s : State) (v : ValueNets) : (s.setValues v).handI = s.handI := rfl
@[simp] theorem State.setValues_valueO (s : State) (v : ValueNets) : (s.setValues v).valueO = s.valueO := rfl
@[simp] theorem State.setValues_rst (s : State) (v : ValueNets) : (s.setValues v).rst = s.rst := rfl
@[simp] theorem State.setValues_inValid (s : State) (v : ValueNets) : (s.setValues v).inValid = s.inValid := rfl
@[simp] theorem State.setValues_settled (s : State) (v : ValueNets) : (s.setValues v).settled = s.settled := rfl
@[simp] theorem State.setValues_stages (s : State) (v : ValueNets) : (s.setValues v).stages = s.stages := rfl
@[simp] theorem State.setValues_matcher (s : State) (v : ValueNets) : (s.setValues v).matcher = s.matcher := rfl
@[simp] theorem State.setValues_values (s : State) (v : ValueNets) : (s.setValues v).values = v := rfl
@[simp] theorem State.setValues_straightOut (s : State) (v : ValueNets) : (s.setValues v).straightOut = s.straightOut := rfl
@[simp] theorem State.setValues_hibitOut (s : State) (v : ValueNets) : (s.setValues v).hibitOut = s.hibitOut := rfl
@[simp] theorem State.setValues_topkOut (s : State) (v : ValueNets) : (s.setValues v).topkOut = s.topkOut := rfl
@[simp] theorem State.setValues_packed (s : State) (v : ValueNets) : (s.setValues v).packed = s.packed := rfl
@[simp] theorem State.setValues_pending (s : State) (v : ValueNets) : (s.setValues v).pending = s.pending := rfl
@[simp] theorem State.setValues_draws (s : State) (v : ValueNets) : (s.setValues v).draws = s.draws := rfl

@[simp] theorem State.setStraightOut_handI (s : State) (m : Mask) : (s.setStraightOut m).handI = s.handI := rfl
@[simp] theorem State.setStraightOut_valueO (s : State) (m : Mask) : (s.setStraightOut m).valueO = s.valueO := rfl
@[simp] theorem State.setStraightOut_rst (s : State) (m : Mask) : (s.setStraightOut m).rst = s.rst := rfl
@[simp] theorem State.setStraightOut_inValid (s : State) (m : Mask) : (s.setStraightOut m).inValid = s.inValid := rfl
@[simp] theorem State.setStraightOut_settled (s : State) (m : Mask) : (s.setStraightOut m).settled = s.settled := rfl
@[simp] theorem State.setStraightOut_stages (s : State) (m : Mask) : (s.setStraightOut m).stages = s.stages := rfl
@[simp] theorem State.setStraightOut_matcher (s : State) (m : Mask) : (s.setStraightOut m).matcher = s.matcher := rfl
@[simp] theorem State.setStraightOut_values (s : State) (m : Mask) : (s.setStraightOut m).values = s.values := rfl
@[simp] theorem State.setStraightOut_straightOut (s : State) (m : Mask) : (s.setStraightOut m).straightOut = m := rfl
@[simp] theorem State.setStraightOut_hibitOut (s : State) (m : Mask) : (s.setStraightOut m).hibitOut = s.hibitOut := rfl
@[simp] theorem State.setStraightOut_topkOut (s : State) (m : Mask) : (s.setStraightOut m).topkOut = s.topkOut := rfl
@[simp] theorem State.setStraightOut_packed (s : State) (m : Mask) : (s.setStraightOut m).packed = s.packed := rfl
@[simp] theorem State.setStraightOut_pending (s : State) (m : Mask) : (s.setStraightOut m).pending = s.pending := rfl
@[simp] theorem State.setStraightOut_draws (s : State) (m : Mask) : (s.setStraightOut m).draws = s.draws := rfl

@[simp] theorem State.setHibitOut_handI (s : State) (m : Mask) : (s.setHibitOut m).handI = s.handI := rfl
@[simp] theorem State.setHibitOut_valueO (s : State) (m : Mask) : (s.setHibitOut m).valueO = s.valueO := rfl
@[simp] theorem State.setHibitOut_rst (s : State) (m : Mask) : (s.setHibitOut m).rst = s.rst := rfl
@[simp] theorem State.setHibitOut_inValid (s : State) (m : Mask) : (s.setHibitOut m).inValid = s.inValid := rfl
@[simp] theorem State.setHibitOut_settled (s : State) (m : Mask) : (s.setHibitOut m).settled = s.settled := rfl
@[simp] theorem State.setHibitOut_stages (s : State) (m : Mask) : (s.setHibitOut m).stages = s.stages := rfl
@[simp] theorem State.setHibitOut_matcher (s : State) (m : Mask) : (s.setHibitOut m).matcher = s.matcher := rfl
@[simp] theorem State.setHibitOut_values (s : State) (m : Mask) : (s.setHibitOut m).values = s.values := rfl
@[simp] theorem State.setHibitOut_straightOut (s : State) (m : Mask) : (s.setHibitOut m).straightOut = s.straightOut := rfl
@[simp] theorem State.setHibitOut_hibitOut (s : State) (m : Mask) : (s.setHibitOut m).hibitOut = m := rfl
@[simp] theorem State.setHibitOut_topkOut (s : State) (m : Mask) : (s.setHibitOut m).topkOut = s.topkOut := rfl
@[simp] theorem State.setHibitOut_packed (s : State) (m : Mask) : (s.setHibitOut m).packed = s.packed := rfl
@[simp] theorem State.setHibitOut_pending (s : State) (m : Mask) : (s.setHibitOut m).pending = s.pending := rfl
@[simp] theorem State.setHibitOut_draws (s : State) (m : Mask) : (s.setHibitOut m).draws = s.draws := rfl

@[simp] theorem State.setTopkOut_handI (s : State) (m : Mask) : (s.setTopkOut m).handI = s.handI := rfl
@[simp] theorem State.setTopkOut_valueO (s : State) (m : Mask) : (s.setTopkOut m).valueO = s.valueO := rfl
@[simp] theorem State.setTopkOut_rst (s : State) (m : Mask) : (s.setTopkOut m).rst = s.rst := rfl
@[simp] theorem State.setTopkOut_inValid (s : State) (m : Mask) : (s.setTopkOut m).inValid = s.inValid := rfl
@[simp] theorem State.setTopkOut_settled (s : State) (m : Mask) : (s.setTopkOut m).settled = s.settled := rfl
@[simp] theorem State.setTopkOut_stages (s : State) (m : Mask) : (s.setTopkOut m).stages = s.stages := rfl
@[simp] theorem State.setTopkOut_matcher (s : State) (m : Mask) : (s.setTopkOut m).matcher = s.matcher := rfl
@[simp] theorem State.setTopkOut_values (s : State) (m : Mask) : (s.setTopkOut m).values = s.values := rfl
@[simp] theorem State.setTopkOut_straightOut (s : State) (m : Mask) : (s.setTopkOut m).straightOut = s.straightOut := rfl
@[simp] theorem State.setTopkOut_hibitOut (s : State) (m : Mask) : (s.setTopkOut m).hibitOut = s.hibitOut := rfl
@[simp] theorem State.setTopkOut_topkOut (s : State) (m : Mask) : (s.setTopkOut m).topkOut = m := rfl
@[simp] theorem State.setTopkOut_packed (s : State) (m : Mask) : (s.setTopkOut m).packed = s.packed := rfl
@[simp] theorem State.setTopkOut_pending (s : State) (m : Mask) : (s.setTopkOut m).pending = s.pending := rfl
@[simp] theorem State.setTopkOut_draws (s : State) (m : Mask) : (s.setTopkOut m).draws = s.draws := rfl

@[simp] theorem State.setPacked_handI (s : State) (hand : Word) : (s.setPacked hand).handI = s.handI := rfl
@[simp] theorem State.setPacked_valueO (s : State) (hand : Word) : (s.setPacked hand).valueO = s.valueO := rfl
@[simp] theorem State.setPacked_rst (s : State) (hand : Word) : (s.setPacked hand).rst = s.rst := rfl
@[simp] theorem State.setPacked_inValid (s : State) (hand : Word) : (s.setPacked hand).inValid = s.inValid := rfl
@[simp] theorem State.setPacked_settled (s : State) (hand : Word) : (s.setPacked hand).settled = s.settled := rfl
@[simp] theorem State.setPacked_stages (s : State) (hand : Word) : (s.setPacked hand).stages = s.stages := rfl
@[simp] theorem State.setPacked_matcher (s : State) (hand : Word) : (s.setPacked hand).matcher = s.matcher := rfl
@[simp] theorem State.setPacked_values (s : State) (hand : Word) : (s.setPacked hand).values = s.values := rfl
@[simp] theorem State.setPacked_straightOut (s : State) (hand : Word) : (s.setPacked hand).straightOut = s.straightOut := rfl
@[simp] theorem State.setPacked_hibitOut (s : State) (hand : Word) : (s.setPacked hand).hibitOut = s.hibitOut := rfl
@[simp] theorem State.setPacked_topkOut (s : State) (hand : Word) : (s.setPacked hand).topkOut = s.topkOut := rfl
@[simp] theorem State.setPacked_packed (s : State) (hand : Word) : (s.setPacked hand).packed = hand := rfl
@[simp] theorem State.setPacked_pending (s : State) (hand : Word) : (s.setPacked hand).pending = s.pending := rfl
@[simp] theorem State.setPacked_draws (s : State) (hand : Word) : (s.setPacked hand).draws = s.draws := rfl

@[simp] theorem State.accept_handI (s : State) (t : Transaction) (rest : List Transaction) :
    (s.accept t rest).handI = s.handI := by
  unfold State.accept; split <;> rfl
@[simp] theorem State.accept_valueO (s : State) (t : Transaction) (rest : List Transaction) :
    (s.accept t rest).valueO = s.valueO := by
  unfold State.accept; split <;> rfl
@[simp] theorem State.accept_rst (s : State) (t : Transaction) (rest : List Transaction) :
    (s.accept t rest).rst = if t.op = .evaluate then t.rst else s.rst := by
  unfold State.accept; split <;> rfl
@[simp] theorem State.accept_inValid (s : State) (t : Transaction) (rest : List Transaction) :
    (s.accept t rest).inValid = if t.op = .evaluate then t.inValid else s.inValid := by
  unfold State.accept; split <;> rfl
@[simp] theorem State.accept_settled (s : State) (t : Transaction) (rest : List Transaction) :
    (s.accept t rest).settled = if t.op = .evaluate then t.settled else s.settled := by
  unfold State.accept; split <;> rfl
@[simp] theorem State.accept_stages (s : State) (t : Transaction) (rest : List Transaction) :
    (s.accept t rest).stages = s.stages := by
  unfold State.accept; split <;> rfl
@[simp] theorem State.accept_matcher (s : State) (t : Transaction) (rest : List Transaction) :
    (s.accept t rest).matcher = s.matcher := by
  unfold State.accept; split <;> rfl
@[simp] theorem State.accept_values (s : State) (t : Transaction) (rest : List Transaction) :
    (s.accept t rest).values = s.values := by
  unfold State.accept; split <;> rfl
@[simp] theorem State.accept_straightOut (s : State) (t : Transaction) (rest : List Transaction) :
    (s.accept t rest).straightOut = s.straightOut := by
  unfold State.accept; split <;> rfl
@[simp] theorem State.accept_hibitOut (s : State) (t : Transaction) (rest : List Transaction) :
    (s.accept t rest).hibitOut = s.hibitOut := by
  unfold State.accept; split <;> rfl
@[simp] theorem State.accept_topkOut (s : State) (t : Transaction) (rest : List Transaction) :
    (s.accept t rest).topkOut = s.topkOut := by
  unfold State.accept; split <;> rfl
@[simp] theorem State.accept_packed (s : State) (t : Transaction) (rest : List Transaction) :
    (s.accept t rest).packed = s.packed := by
  unfold State.accept; split <;> rfl
@[simp] theorem State.accept_pending (s : State) (t : Transaction) (rest : List Transaction) :
    (s.accept t rest).pending = rest := by
  unfold State.accept; split <;> rfl
@[simp] theorem State.accept_draws (s : State) (t : Transaction) (rest : List Transaction) :
    (s.accept t rest).draws = s.draws := by
  unfold State.accept; split <;> rfl

end Sys2Proof.Machine
end

