-- ==== Sys2Proof/Laws/Ops.lean ====
section
/-! SUPPORT. What the shared operations over the state can do, said once: the stage list, the sampled word, the next
transaction, and a step. -/

namespace Sys2Proof.Machine

/-! The stage list (R28) -/

@[simp] theorem clearStages_length (draw : Nat) (sts : List Stage) : (clearStages draw sts).length = sts.length := by
  induction sts generalizing draw with
  | nil => rfl
  | cons _ rest ih => simp [clearStages, ih]

theorem clearStages_not_valid (draw : Nat) (sts : List Stage) : ∀ e ∈ clearStages draw sts, e.valid = false := by
  induction sts generalizing draw with
  | nil => simp [clearStages]
  | cons _ rest ih => simpa [clearStages] using ih (draw + 1)

@[simp] theorem shiftStages_length (e : Stage) (sts : List Stage) : (shiftStages e sts).length = sts.length := by
  induction sts generalizing e with
  | nil => rfl
  | cons first rest ih => simp [shiftStages, ih]

@[simp] theorem shiftStages_nil (e : Stage) : shiftStages e [] = [] := rfl

theorem shiftStages_head (e : Stage) (sts : List Stage) (h : sts ≠ []) : (shiftStages e sts)[0]? = some e := by
  cases sts with
  | nil => exact absurd rfl h
  | cons _ _ => rfl

/-- Every entry but the first is its predecessor before the shift. -/
theorem shiftStages_succ (e : Stage) (sts : List Stage) (k : Nat) (h : k + 1 < sts.length) :
    (shiftStages e sts)[k + 1]? = sts[k]? := by
  induction sts generalizing e k with
  | nil => simp at h
  | cons first rest ih =>
    cases k with
    | zero =>
      have hne : rest ≠ [] := by rintro rfl; simp at h
      simpa [shiftStages] using shiftStages_head first rest hne
    | succ k =>
      have := ih first k (by simpa using h)
      simpa [shiftStages] using this

/-- The two things an edge can do to the stages. -/
theorem State.stagesAfterEdge_cases (s : State) :
    (s.rst = true ∧ s.stagesAfterEdge = clearStages s.draws s.stages) ∨
    (s.rst = false ∧ s.stagesAfterEdge = shiftStages ⟨s.inValid, evaluateWord s.handI⟩ s.stages) := by
  unfold State.stagesAfterEdge
  cases s.rst <;> simp

@[simp] theorem State.stagesAfterEdge_length (s : State) : s.stagesAfterEdge.length = s.stages.length := by
  rcases s.stagesAfterEdge_cases with ⟨_, h⟩ | ⟨_, h⟩ <;> simp [h]

theorem State.stagesAfterEdge_of_nil (s : State) (h : s.stages = []) : s.stagesAfterEdge = [] := by
  exact List.length_eq_zero_iff.mp (by rw [s.stagesAfterEdge_length, h]; rfl)

/-! The sampled word (R26, R28, R264) -/

/-- The four things a sample of `value_o` can show. -/
theorem State.sampledWord_cases (s : State) :
    (s.stages = [] ∧ s.settled = true ∧ s.sampledWord = (evaluateWord s.handI, false)) ∨
    (s.stages = [] ∧ s.settled = false ∧ s.sampledWord = (Config.freeWord s.draws, true)) ∨
    (∃ last, s.stages.getLast? = some last ∧ last.valid = true ∧ s.sampledWord = (last.val, false)) ∨
    (∃ last, s.stages.getLast? = some last ∧ last.valid = false ∧ s.sampledWord = (Config.freeWord s.draws, true)) := by
  unfold State.sampledWord
  cases h : s.stages.getLast? with
  | none =>
    have hnil : s.stages = [] := List.getLast?_eq_none_iff.mp h
    cases s.settled <;> simp [hnil]
  | some last =>
    cases hv : last.valid <;> simp [hv]

/-! The next transaction and a step (D26) -/

theorem State.fetch_of_nil (s : State) (h : s.pending = []) : s.fetch = .ok (.evaluate s.handI, s) := by
  simp [State.fetch, h]

theorem State.fetch_of_cons (s : State) (t : Transaction) (rest : List Transaction) (h : s.pending = t :: rest) :
    s.fetch = (decode t.op t.nbits t.bits).map fun i => (i, s.accept t rest) := by
  simp only [State.fetch, h]
  cases decode t.op t.nbits t.bits <;> rfl

/-- Where a step's next state comes from: `exec` of the held hand, or of the oldest transaction's instruction in the
state that has taken it. -/
theorem step_next_cases (s u : State) (h : step s = .next u) :
    (s.pending = [] ∧ exec (.evaluate s.handI) s = .next u) ∨
    (∃ t rest i, s.pending = t :: rest ∧ decode t.op t.nbits t.bits = .ok i ∧ exec i (s.accept t rest) = .next u) := by
  cases hp : s.pending with
  | nil =>
    refine .inl ⟨rfl, ?_⟩
    simpa [step, s.fetch_of_nil hp] using h
  | cons t rest =>
    refine .inr ⟨t, rest, ?_⟩
    cases hd : decode t.op t.nbits t.bits with
    | error e => simp [step, s.fetch_of_cons t rest hp, hd, Except.map] at h
    | ok i =>
      refine ⟨i, rfl, rfl, ?_⟩
      simpa [step, s.fetch_of_cons t rest hp, hd, Except.map] using h

@[simp] theorem State.withFetchWord_pending (s : State) (nbits w : Nat) :
    (s.withFetchWord nbits w).pending = transactionOf nbits w :: s.pending := rfl

end Sys2Proof.Machine
end

