-- ==== Sys2Proof/Laws/PerInstr.lean ====
section
/-! SUPPORT. Statements for all instructions, one lemma per constructor: an instruction's bits fit its row, and cutting the
row's operand fields out of them gives the instruction back. -/

namespace Sys2Proof.Laws

/-- The low operand of a concatenation, cut out. -/
theorem extract_append_low {a b : Nat} (x : BitVec a) (y : BitVec b) : (x ++ y).extractLsb' 0 b = y := by
  apply BitVec.eq_of_getLsbD_eq
  intro i hi
  simp [BitVec.getLsbD_append, hi]

/-- A field above the low operand of a concatenation is a field of the high operand. -/
theorem extract_append_high {a b : Nat} (x : BitVec a) (y : BitVec b) (start len : Nat) :
    (x ++ y).extractLsb' (b + start) len = x.extractLsb' start len := by
  apply BitVec.eq_of_getLsbD_eq
  intro i hi
  simp [BitVec.getLsbD_append, hi, show ¬ b + start + i < b by omega, show b + start + i - b = start + i by omega]

/-- A whole word, cut out of itself. -/
theorem extract_whole {a : Nat} (x : BitVec a) : x.extractLsb' 0 a = x := by
  apply BitVec.eq_of_getLsbD_eq
  intro i hi
  simp [hi]

/-- Four lanes survive being packed into one operand and cut out again. -/
theorem unpackLanes_packLanes (x : PerSuit Mask) : unpackLanes (packLanes x) = x := by
  rcases x with ⟨a, b, c, d⟩
  have h0 : (packLanes ⟨a, b, c, d⟩).extractLsb' 0 14 = a := extract_append_low (d ++ c ++ b) a
  have h1 : (packLanes ⟨a, b, c, d⟩).extractLsb' 14 14 = b :=
    (extract_append_high (d ++ c ++ b) a 0 14).trans (extract_append_low (d ++ c) b)
  have h2 : (packLanes ⟨a, b, c, d⟩).extractLsb' 28 14 = c :=
    (extract_append_high (d ++ c ++ b) a 14 14).trans
      ((extract_append_high (d ++ c) b 0 14).trans (extract_append_low d c))
  have h3 : (packLanes ⟨a, b, c, d⟩).extractLsb' 42 14 = d :=
    (extract_append_high (d ++ c ++ b) a 28 14).trans
      ((extract_append_high (d ++ c) b 14 14).trans ((extract_append_high d c 0 14).trans (extract_whole d)))
  simp [unpackLanes, PerSuit.ofFn, h0, h1, h2, h3]

/-- The instruction's bits fit the width the opcode table gives its row. -/
def EncodingFits.Statement (i : Instr) : Prop := encode i < 2 ^ i.op.width

/-- The row's operand fields, cut out of the instruction's bits, are its operands. -/
def OperandsRoundTrip.Statement (i : Instr) : Prop := operandsOf i.op (encode i) = i

theorem EncodingFits.evaluate (hand : Word) : EncodingFits.Statement (.evaluate hand) :=
  BitVec.isLt _

theorem EncodingFits.pack (mask : CardMask) : EncodingFits.Statement (.pack mask) :=
  BitVec.isLt _

theorem EncodingFits.bpmLanes (hand : Word) : EncodingFits.Statement (.bpmLanes hand) :=
  BitVec.isLt _

theorem EncodingFits.bpmPresence (w : PerSuit Mask) : EncodingFits.Statement (.bpmPresence w) :=
  BitVec.isLt _

theorem EncodingFits.bpmQuads (r : PerSuit Mask) : EncodingFits.Statement (.bpmQuads r) :=
  BitVec.isLt _

theorem EncodingFits.bpmDistinct (present : Mask) : EncodingFits.Statement (.bpmDistinct present) :=
  BitVec.isLt _

theorem EncodingFits.bpmSuitcount (r : PerSuit Mask) : EncodingFits.Statement (.bpmSuitcount r) :=
  BitVec.isLt _

theorem EncodingFits.bpmStraight (m : Mask) : EncodingFits.Statement (.bpmStraight m) :=
  BitVec.isLt _

theorem EncodingFits.bpmSfdetect (w : PerSuit Mask) : EncodingFits.Statement (.bpmSfdetect w) :=
  BitVec.isLt _

theorem EncodingFits.bpmStdetect (or14 : Mask) : EncodingFits.Statement (.bpmStdetect or14) :=
  BitVec.isLt _

theorem EncodingFits.bpmTally (r : PerSuit Mask) : EncodingFits.Statement (.bpmTally r) :=
  BitVec.isLt _

theorem EncodingFits.reHibit (m : Mask) : EncodingFits.Statement (.reHibit m) :=
  BitVec.isLt _

theorem EncodingFits.reTopk (m : Mask) (k : BitVec 3) : EncodingFits.Statement (.reTopk m k) :=
  BitVec.isLt _

theorem EncodingFits.rePayload (p : Mask) (k : Mask) : EncodingFits.Statement (.rePayload p k) :=
  BitVec.isLt _

theorem EncodingFits.ctTag (cat : Nibble) : EncodingFits.Statement (.ctTag cat) :=
  BitVec.isLt _

theorem EncodingFits.ctCompose (cat : Nibble) (p : Mask) (k : Mask) : EncodingFits.Statement (.ctCompose cat p k) :=
  BitVec.isLt _

theorem OperandsRoundTrip.evaluate (hand : Word) : OperandsRoundTrip.Statement (.evaluate hand) := by
  simp [OperandsRoundTrip.Statement, operandsOf, encode, Instr.op]

theorem OperandsRoundTrip.pack (mask : CardMask) : OperandsRoundTrip.Statement (.pack mask) := by
  simp [OperandsRoundTrip.Statement, operandsOf, encode, Instr.op]

theorem OperandsRoundTrip.bpmLanes (hand : Word) : OperandsRoundTrip.Statement (.bpmLanes hand) := by
  simp [OperandsRoundTrip.Statement, operandsOf, encode, Instr.op]

theorem OperandsRoundTrip.bpmPresence (w : PerSuit Mask) : OperandsRoundTrip.Statement (.bpmPresence w) := by
  simp [OperandsRoundTrip.Statement, operandsOf, encode, Instr.op, unpackLanes_packLanes]

theorem OperandsRoundTrip.bpmQuads (r : PerSuit Mask) : OperandsRoundTrip.Statement (.bpmQuads r) := by
  simp [OperandsRoundTrip.Statement, operandsOf, encode, Instr.op, unpackLanes_packLanes]

theorem OperandsRoundTrip.bpmDistinct (present : Mask) : OperandsRoundTrip.Statement (.bpmDistinct present) := by
  simp [OperandsRoundTrip.Statement, operandsOf, encode, Instr.op]

theorem OperandsRoundTrip.bpmSuitcount (r : PerSuit Mask) : OperandsRoundTrip.Statement (.bpmSuitcount r) := by
  simp [OperandsRoundTrip.Statement, operandsOf, encode, Instr.op, unpackLanes_packLanes]

theorem OperandsRoundTrip.bpmStraight (m : Mask) : OperandsRoundTrip.Statement (.bpmStraight m) := by
  simp [OperandsRoundTrip.Statement, operandsOf, encode, Instr.op]

theorem OperandsRoundTrip.bpmSfdetect (w : PerSuit Mask) : OperandsRoundTrip.Statement (.bpmSfdetect w) := by
  simp [OperandsRoundTrip.Statement, operandsOf, encode, Instr.op, unpackLanes_packLanes]

theorem OperandsRoundTrip.bpmStdetect (or14 : Mask) : OperandsRoundTrip.Statement (.bpmStdetect or14) := by
  simp [OperandsRoundTrip.Statement, operandsOf, encode, Instr.op]

theorem OperandsRoundTrip.bpmTally (r : PerSuit Mask) : OperandsRoundTrip.Statement (.bpmTally r) := by
  simp [OperandsRoundTrip.Statement, operandsOf, encode, Instr.op, unpackLanes_packLanes]

theorem OperandsRoundTrip.reHibit (m : Mask) : OperandsRoundTrip.Statement (.reHibit m) := by
  simp [OperandsRoundTrip.Statement, operandsOf, encode, Instr.op]

theorem OperandsRoundTrip.reTopk (m : Mask) (k : BitVec 3) : OperandsRoundTrip.Statement (.reTopk m k) := by
  have hm : (m ++ k).extractLsb' 3 14 = m := (extract_append_high m k 0 14).trans (extract_whole m)
  have hk : (m ++ k).extractLsb' 0 3 = k := extract_append_low m k
  simp [OperandsRoundTrip.Statement, operandsOf, encode, Instr.op, hm, hk]

theorem OperandsRoundTrip.rePayload (p : Mask) (k : Mask) : OperandsRoundTrip.Statement (.rePayload p k) := by
  have hp : (p ++ k).extractLsb' 14 14 = p := (extract_append_high p k 0 14).trans (extract_whole p)
  have hk : (p ++ k).extractLsb' 0 14 = k := extract_append_low p k
  simp [OperandsRoundTrip.Statement, operandsOf, encode, Instr.op, hp, hk]

theorem OperandsRoundTrip.ctTag (cat : Nibble) : OperandsRoundTrip.Statement (.ctTag cat) := by
  simp [OperandsRoundTrip.Statement, operandsOf, encode, Instr.op]

theorem OperandsRoundTrip.ctCompose (cat : Nibble) (p : Mask) (k : Mask) : OperandsRoundTrip.Statement (.ctCompose cat p k) := by
  have hc : (cat ++ p ++ k).extractLsb' 28 4 = cat :=
    (extract_append_high (cat ++ p) k 14 4).trans ((extract_append_high cat p 0 4).trans (extract_whole cat))
  have hp : (cat ++ p ++ k).extractLsb' 14 14 = p :=
    (extract_append_high (cat ++ p) k 0 14).trans (extract_append_low cat p)
  have hk : (cat ++ p ++ k).extractLsb' 0 14 = k := extract_append_low (cat ++ p) k
  simp [OperandsRoundTrip.Statement, operandsOf, encode, Instr.op, hc, hp, hk]

end Sys2Proof.Laws
end

