-- ==== Sys2Proof/Tests/Slice0.lean ====
section
/-! SUPPORT. Tests against the spec's own vectors (95_test_vectors.md, with its section named at each), words written out
from the opcode table's encodings, ill-formed operands, and a witness for the hypotheses of each obligation. -/

namespace Sys2Proof.Tests

open Sys2Proof.Machine

/-- A field of the next state, if there is one. -/
def seen {α : Type} (o : Host.Outcome State Fault Refusal) (f : State → α) : Option α :=
  match o with
  | .next s => some (f s)
  | .fault _ => none
  | .refused _ => none

/-- The source's wheel hand (section 1, S1): Ac 2d 3h 4s 5c 9d Kh. -/
def wheel : Word := 0x0008_1004_0102_2011

/-- Nines of all suits with A, K, Q (S5). -/
def nines : Word := 0x0100_0900_1100_2101

/-- Aces full of Kings from two trips (S4). -/
def twoTrips : Word := 0x0002_3001_3001_3001

/-- Trips and two pairs: 7c 7d 7h Kc Kd Qh Qs (section 2.5). -/
def tripsTwoPairs : Word := 0x0800_0840_1040_1040

/-- The lanes `w` of Ac Ad Ah Kc Kd 2s 4h (section 2.2, row 6). -/
def row6 : PerSuit Mask := ⟨0x3001, 0x3001, 0x2009, 0x0002⟩

/-- The lanes `r` of the same row. -/
def row6r : PerSuit Mask := ⟨0x3000, 0x3000, 0x2008, 0x0002⟩

/-- A wrapper of latency 2 (program P3) with the given stages and port levels. -/
def wrapper (st0 st1 : Stage) (rst inValid : Bool) : State :=
  { State.reset with stages := [st0, st1], rst := rst, inValid := inValid }

/-- The combinational block showing the wheel. -/
def wheelState : State :=
  { State.reset with
    handI := wheel, valueO := 0x0000_0010_0010_0000, matcher := matcherNets wheel, values := valueNets wheel }

/-! Ill-formed operands, one for each check -/

theorem test_quads_bit_zero_ill_formed : (Instr.bpmQuads ⟨0x2101, 0, 0, 0⟩).defect = some .rankBitZero := by decide
theorem test_distinct_bit_zero_ill_formed : (Instr.bpmDistinct 0x311F).defect = some .rankBitZero := by decide
theorem test_suitcount_bit_zero_ill_formed : (Instr.bpmSuitcount ⟨0, 0, 0, 1⟩).defect = some .rankBitZero := by decide
theorem test_tally_bit_zero_ill_formed : (Instr.bpmTally ⟨0, 0, 1, 0⟩).defect = some .rankBitZero := by decide
theorem test_topk_count_ill_formed : (Instr.reTopk 0x3FFE 6).defect = some .countAboveFive := by decide
theorem test_tag_category_ill_formed : (Instr.ctTag 9).defect = some .reservedCategory := by decide
theorem test_compose_category_ill_formed : (Instr.ctCompose 15 1 1).defect = some .reservedCategory := by decide

/-! Decoding: each row's word written out from its "encoding" -/

theorem test_decode_evaluate : decode .evaluate 64
    0b0000000000001000_0001000000000100_0000000100000010_0010000000010001 = .ok (.evaluate wheel) := by decide
theorem test_decode_pack : decode .pack 52
    0b0000000000100_0100000000010_0000010000001_1000000001000 = .ok (.pack 0x0022008103008) := by decide
theorem test_decode_pack_carrier : decode .pack 64 0xFFF8_0000_0000_0001 = .ok (.pack 0x8000000000001) := by decide
theorem test_decode_lanes : decode .bpmLanes 64 0x0008_1004_0102_2011 = .ok (.bpmLanes wheel) := by decide
theorem test_decode_presence : decode .bpmPresence 56
    0b00000000000010_10000000001001_11000000000001_11000000000001 = .ok (.bpmPresence row6) := by decide
theorem test_decode_quads : decode .bpmQuads 56
    0b00000000000010_10000000001000_11000000000000_11000000000000 = .ok (.bpmQuads row6r) := by decide
theorem test_decode_distinct : decode .bpmDistinct 14 0b11000100011110 = .ok (.bpmDistinct 0x311E) := by decide
theorem test_decode_suitcount : decode .bpmSuitcount 56
    0b00000000000010_10000000001000_11000000000000_11000000000000 = .ok (.bpmSuitcount row6r) := by decide
theorem test_decode_straight : decode .bpmStraight 14 0b00000000011111 = .ok (.bpmStraight 0x001F) := by decide
theorem test_decode_sfdetect : decode .bpmSfdetect 56
    0b00000000000010_10000000001001_11000000000001_11000000000001 = .ok (.bpmSfdetect row6) := by decide
theorem test_decode_stdetect : decode .bpmStdetect 14 0b11000100011111 = .ok (.bpmStdetect 0x311F) := by decide
theorem test_decode_tally : decode .bpmTally 56
    0b00000000000010_10000000001000_11000000000000_11000000000000 = .ok (.bpmTally row6r) := by decide
theorem test_decode_hibit : decode .reHibit 14 0b00000011100000 = .ok (.reHibit 0x00E0) := by decide
theorem test_decode_topk : decode .reTopk 17 0b10101001010100_011 = .ok (.reTopk 0x2A54 3) := by decide
theorem test_decode_payload : decode .rePayload 28 0b01100000000000_00010000000000 =
    .ok (.rePayload 0x1800 0x0400) := by decide
theorem test_decode_tag : decode .ctTag 4 0b0111 = .ok (.ctTag 7) := by decide
theorem test_decode_compose : decode .ctCompose 32 0b0111_00000100000000_10000000000000 =
    .ok (.ctCompose 7 0x0100 0x2000) := by decide
theorem test_decode_rejects_width : decode .evaluate 32 0 = .error (.wrongWidth .evaluate 32) := by decide
theorem test_decode_rejects_long_word : decode .ctTag 8 0x10 = .error (.bitsAboveWidth .ctTag) := by decide

/-! One step or one function at a time; values from 95_test_vectors.md -/

/-- A step on a bare word performs EVALUATE on it (S1). -/
theorem test_evaluate_wheel_step :
    seen (step (State.reset.withFetchWord 64 0x0008_1004_0102_2011)) State.valueO = some 0x0000_0010_0010_0000 := by
  decide

/-- Section 2.5: one hand or more per category rule, with the packed word and the value. -/
theorem test_evaluate_vectors :
    ([(0x3E01_0000_0004_0002, 0x0000_0100_2000_0000), (0x0000_201F_1000_1000, 0x0000_0100_0010_0000),
      (0x0000_01F0_0400_0200, 0x0000_0100_0100_0000), (0x2001_3001_3001_3001, 0x0000_0080_2000_1000),
      (0x0100_2101_1100_1100, 0x0000_0080_0100_2000), (0x0002_3001_3001_3001, 0x0000_0040_2000_1000),
      (0x0100_0012_2003_2003, 0x0000_0040_0002_2000), (0x0000_0000_2AAB_0000, 0x0000_0020_2AA0_0000),
      (0x0000_0080_0020_105A, 0x0000_0020_105A_0000), (0x0400_1100_0900_0300, 0x0000_0010_1000_0000),
      (0x0004_0002_0002_000A, 0x0000_0008_0002_000C), (0x0002_0000_1C00_1C00, 0x0000_0004_1800_0400),
      (0x2001_0000_1804_1804, 0x0000_0004_1800_2000), (0x0010_0006_1400_0500, 0x0000_0002_0400_1110),
      (0x0002_2081_1040_0804, 0x0000_0001_38C0_0000), (0x0010_0008_0004_0042, 0x0000_0001_005E_0000),
      (0x2001_2001_2001_2001, 0xFFFF_FFFF_FFFF_FFFF), (0x0110_0088_0044_0022, 0xFFFF_FFFF_FFFF_FFFF)] :
      List (Word × Word)).all (fun v => classify v.1 == v.2) = true := by
  decide +kernel

theorem test_pack_wheel :
    seen (exec (.pack 0x0022008103008) State.reset) State.packed = some 0x0008_1004_0102_2011 := by decide
theorem test_pack_all_cards :
    seen (exec (.pack 0xFFFFFFFFFFFFF) State.reset) State.packed = some 0x3FFF_3FFF_3FFF_3FFF := by decide
theorem test_lanes_wheel : seen (exec (.bpmLanes wheel) State.reset) (fun t => (t.matcher.w, t.matcher.r)) =
    some (⟨0x2011, 0x0102, 0x1004, 0x0008⟩, ⟨0x2010, 0x0102, 0x1004, 0x0008⟩) := by decide
theorem test_presence_row6 : seen (exec (.bpmPresence row6) State.reset) (fun t => (t.matcher.or14, t.matcher.present)) =
    some (0x300B, 0x300A) := by decide
theorem test_quads_nines :
    seen (exec (.bpmQuads ⟨0x2100, 0x1100, 0x0900, 0x0100⟩) State.reset) (fun t => t.matcher.quads) = some 0x0100 := by
  decide
theorem test_distinct_wheel : seen (exec (.bpmDistinct 0x311E) State.reset) (fun t => t.matcher.n) = some 7 := by decide
theorem test_suitcount_flush : seen (exec (.bpmSuitcount ⟨0x2000, 0, 0x154A, 0⟩) State.reset) (fun t => t.matcher.lc) =
    some ⟨1, 0, 6, 0⟩ := by decide
theorem test_straight_two_runs : seen (exec (.bpmStraight 0x3EFE) State.reset) State.straightOut = some 0x20E0 := by
  decide
theorem test_straight_no_wrap : seen (exec (.bpmStraight 0x3807) State.reset) State.straightOut = some 0 := by decide
theorem test_sfdetect_steel_wheel :
    seen (exec (.bpmSfdetect ⟨0x1000, 0x1000, 0x201F, 0⟩) State.reset) (fun t => t.matcher.sfm) = some 0x0010 := by
  decide
theorem test_stdetect_wheel : seen (exec (.bpmStdetect 0x311F) State.reset) (fun t => t.matcher.stm) = some 0x0010 := by
  decide
theorem test_tally_row6 : seen (exec (.bpmTally row6r) State.reset)
    (fun t => (t.matcher.singles, t.matcher.pairs, t.matcher.trips)) = some (0x000A, 0x1000, 0x2000) := by decide
theorem test_hibit_top : seen (exec (.reHibit 0x3FF0) State.reset) State.hibitOut = some 0x2000 := by decide
theorem test_hibit_bit_zero : seen (exec (.reHibit 0x0001) State.reset) State.hibitOut = some 0x0001 := by decide
theorem test_topk_trims : seen (exec (.reTopk 0x154A 5) State.reset) State.topkOut = some 0x1548 := by decide
theorem test_topk_fewer : seen (exec (.reTopk 0x0006 5) State.reset) State.topkOut = some 0x0006 := by decide
theorem test_payload : seen (exec (.rePayload 0x1800 0x0400) State.reset) (fun t => t.values.payload) =
    some 0x1800_0400 := by decide
theorem test_tag_quads : seen (exec (.ctTag 7) State.reset) (fun t => t.values.tag) = some 0x0000_0080_0000_0000 := by
  decide
theorem test_compose_largest : seen (exec (.ctCompose 8 0x2000 0) State.reset) (fun t => t.values.value) =
    some 0x0000_0100_2000_0000 := by decide

/-! Witnesses: a concrete state and operands that meet all the hypotheses of the statement named -/

theorem witness_DecodeOfEncodeIsTheInstruction : (Instr.reTopk 0x3FFF 7).op.acceptsWidth 24 = true := by decide
theorem witness_EncodeOfDecodeIsTheWord : decode .ctTag 8 8 = .ok (.ctTag 8) := by decide
theorem witness_EncodeOfDecodeIsTheWord_pack : decode .pack 56 0xF0_0000_0000_0001 = .ok (.pack 1) := by decide
/-- The largest operand of a row, a word one bit too long for it, and a PACK carrier with bits above 51 and above 55. -/
theorem witness_EveryOperandValueDecodesAndRuns :
    Op.ctTag.acceptsWidth 4 = true ∧ 15 < 2 ^ Op.ctTag.width ∧ decode .ctTag 4 15 = .ok (.ctTag 15) ∧
      decode .ctTag 8 16 = .error (.bitsAboveWidth .ctTag) ∧ decode .pack 56 (2 ^ 55) = .ok (.pack 0) ∧
      decode .pack 56 (2 ^ 56) = .error (.bitsAboveWidth .pack) ∧ Op.ctTag.acceptsWidth 5 = false := by decide
theorem witness_StepPerformsTheOldestTransaction_decodes :
    (State.reset.withFetchWord 64 7).pending = transactionOf 64 7 :: [] ∧
      decode (transactionOf 64 7).op (transactionOf 64 7).nbits (transactionOf 64 7).bits = .ok (.evaluate 7) ∧
      (transactionOf 64 7).op = .evaluate ∧ (transactionOf 52 7).op ≠ .evaluate ∧
      decode (transactionOf 52 7).op (transactionOf 52 7).nbits (transactionOf 52 7).bits = .ok (.pack 7) := by decide
theorem witness_StepPerformsTheOldestTransaction_idle : State.reset.pending = [] := by decide
theorem witness_StepPerformsTheOldestTransaction_refused :
    (State.reset.withFetchWord 40 7).pending = transactionOf 40 7 :: [] ∧
      decode (transactionOf 40 7).op (transactionOf 40 7).nbits (transactionOf 40 7).bits =
        .error (.wrongWidth .evaluate 40) := by decide

/-- The invariant holds in a state that shows a hand. -/
theorem witness_EveryStepKeepsTheMachineInvariant : MachineInv wheelState ∧ ∃ t, step wheelState = .next t := by
  refine ⟨⟨?_, ?_, ?_, ?_⟩, ⟨_, rfl⟩⟩
  · refine ⟨?_, ?_, ?_, ?_, ?_, ?_, ?_, ?_, ?_⟩ <;> decide +kernel
  · refine ⟨?_, ?_⟩ <;> decide +kernel
  · refine ⟨?_, ?_, ?_, ?_⟩ <;> decide +kernel
  · intro _
    decide +kernel

theorem witness_StepKeepsThePipelineLatency :
    ∃ t, step (wrapper ⟨true, 1⟩ ⟨true, 2⟩ false true) = .next t := ⟨_, rfl⟩
theorem witness_NothingTraps_refusal : step (State.reset.withFetchWord 40 0) =
    .refused (.undecodable (.wrongWidth .evaluate 40)) := rfl
theorem witness_ResetLeavesNoValidResult : 0 < (2 : Nat) ∧ (State.resetWith 2).stages.length = 2 := by decide
theorem witness_ResetEdgeClearsEveryValidBit :
    (wrapper ⟨true, 1⟩ ⟨true, 2⟩ true true).stages ≠ [] ∧ (wrapper ⟨true, 1⟩ ⟨true, 2⟩ true true).rst = true := by decide
theorem witness_OutValidStaysLowAfterReset :
    let s := { wrapper ⟨false, 1⟩ ⟨false, 2⟩ false false with pending := [cycle false true wheel] }
    (∀ e ∈ s.stages, e.valid = false) ∧ [(true, wheel)].length < s.latency ∧
      s.pending = [(true, wheel)].map (fun c => cycle false c.1 c.2) ++ [] := by decide
theorem witness_AcceptedHandLeavesAfterLatencyEdges :
    let s := { wrapper ⟨true, 1⟩ ⟨true, 2⟩ true false with pending := [cycle false true wheel, cycle false false 0] }
    s.latency = [(false, (0 : Word))].length + 1 ∧
      s.pending = cycle false true wheel :: ([(false, (0 : Word))].map fun c => cycle false c.1 c.2) ++ [] := by decide
theorem witness_ExactlyOneCategoryRuleSuppliesTheValue : sentinelCondition (matcherNets wheel).n = false := by decide
theorem witness_EvaluateInContractGivesClassify :
    State.reset.stages = [] ∧ State.reset.settled = true ∧ wellFormedHand wheel = true := by decide +kernel
theorem witness_EvaluateSentinelPath_none :
    (List.range 13).countP (fun j => (List.finRange 4).any fun q =>
      (0x2001_2001_2001_2001 : Word).getLsbD (16 * q.val + (j + 1))) < 2 := by decide +kernel
theorem witness_EvaluateSentinelPath_many :
    7 < (List.range 13).countP (fun j => (List.finRange 4).any fun q =>
      (0x0110_0088_0044_0022 : Word).getLsbD (16 * q.val + (j + 1))) ∧
    (wrapper ⟨true, 1⟩ ⟨true, 2⟩ false true).stages ≠ [] := by decide +kernel
theorem witness_EvaluateOutOfContractIsFree :
    State.reset.stages = [] ∧ State.reset.settled = true ∧ wellFormedHand 0x1000_0100_0010_0002 = false ∧
      sentinelCondition (matcherNets 0x1000_0100_0010_0002).n = false := by decide +kernel
theorem witness_EvaluateUnsettledGivesAnyValue :
    let s := { State.reset with settled := false }
    s.stages = [] ∧ s.settled = false := by decide
theorem witness_EvaluateFrame_valid :
    seen (exec (.evaluate wheel) (wrapper ⟨true, 1⟩ ⟨true, 2⟩ false true)) State.outValid = some (some true) := by decide
theorem witness_EvaluateShiftsTheWrapper :
    (wrapper ⟨true, 1⟩ ⟨true, 2⟩ false true).stages ≠ [] ∧ (wrapper ⟨true, 1⟩ ⟨true, 2⟩ false true).rst = false ∧
      wellFormedHand wheel = true := by decide +kernel
theorem witness_FiveRankGateIsHarmlessInContract :
    wellFormedHand nines = true ∧ 5 ≤ ((matcherNets 0x0000_154A_0000_2001).lc.get 2).toNat ∧
      2 ≤ (matcherNets nines).n.toNat ∧ (matcherNets nines).n.toNat ≤ 4 ∧
      5 ≤ (matcherNets wheel).n.toNat ∧ (matcherNets wheel).n.toNat ≤ 7 := by decide +kernel

/-- Inputs without a stray ace duplicate, of two ranks and of seven, neither of them well-formed. -/
theorem witness_FiveRankGateIsHarmlessInContract_no_stray :
    (matcherNets 0x0000_2000_0000_0002).n.toNat = 2 ∧
      (∀ q : Suit, (0x0000_2000_0000_0002 : Word).getLsbD (16 * q.val) = true →
        (0x0000_2000_0000_0002 : Word).getLsbD (16 * q.val + 13) = true) ∧
      (matcherNets 0x2010_0102_1004_C008).n.toNat = 7 ∧
      (∀ q : Suit, (0x2010_0102_1004_C008 : Word).getLsbD (16 * q.val) = true →
        (0x2010_0102_1004_C008 : Word).getLsbD (16 * q.val + 13) = true) := by decide +kernel
theorem witness_StructuralFactsOfWellFormedHands :
    wellFormedHand nines = true ∧ (matcherNets nines).quads ≠ 0 ∧ wellFormedHand tripsTwoPairs = true ∧
      1 ≤ popcount (matcherNets tripsTwoPairs).trips ∧ (matcherNets tripsTwoPairs).pairs ≠ 0 ∧
      wellFormedHand twoTrips = true ∧ 2 ≤ popcount (matcherNets twoTrips).trips ∧
      (matcherNets twoTrips).n.toNat ≤ 4 := by decide +kernel
theorem witness_WellFormedHandsGetTheirStandardCategory : wellFormedHand nines = true := by decide +kernel
theorem witness_ValueFormatOfWellFormedHands : wellFormedHand twoTrips = true := by decide +kernel
theorem witness_LowestAndHighestWellFormedValues :
    wellFormedHand 0x0010_0008_0004_0042 = true ∧ wellFormedHand 0x3E01_0000_0004_0002 = true := by decide +kernel
theorem witness_CategoryFixesTheFieldSizes : wellFormedHand tripsTwoPairs = true := by decide +kernel
theorem witness_ValuesOrderHandsByBestFiveCards :
    wellFormedHand 0x0002_2009_3001_3001 = true ∧ wellFormedHand 0x0004_2011_3001_3001 = true := by decide +kernel
theorem witness_ValuesAreSuitSymmetric :
    wellFormedHand wheel = true ∧ Equiv.swap (0 : Suit) 2 ≠ Equiv.refl Suit := by decide +kernel
theorem witness_ValueDependsOnTheHandAlone :
    State.reset.stages = [] ∧ wheelState.stages = [] ∧ State.reset.settled = true ∧ wheelState.settled = true := by decide
theorem witness_EvaluationIsIdempotent : wheelState.stages = [] ∧ wheelState.settled = true := by decide
theorem witness_EvaluationsDoNotInteract : State.reset.stages = [] ∧ State.reset.settled = true := by decide
theorem witness_InputClassesPartitionTheWords :
    inputClass wheel = .inContract ∧ inputClass 0xFFFF_FFFF_FFFF_FFFF = .sentinel ∧
      inputClass 0x0008_1004_0102_2010 = .unspecified := by decide +kernel
theorem witness_ConsumerMustTestTheSentinelFirst :
    wellFormedHand wheel = true ∧ inputClass 0 = .sentinel ∧ inputClass 0x0110_0088_0044_0022 = .sentinel ∧
      wellFormedHand nines = true := by decide +kernel
theorem witness_MissingAceDuplicateIsNotDiagnosed :
    wellFormedHand wheel = true ∧ wheel.getLsbD (16 * (0 : Suit).val + 13) = true := by decide +kernel
theorem witness_SubBlocksComposeToEvaluate :
    wheelState.stages = [] ∧ wheelState.settled = true ∧ wellFormedHand twoTrips = true := by decide +kernel
theorem witness_PackPlacesEveryCard : 2 ≤ 2 ∧ 2 ≤ 14 ∧ 14 ≤ 14 := by decide
theorem witness_PackIsInvertibleOntoItsImage :
    unusedClear wheel = true ∧ acesAgree wheel = true ∧ wellFormedHand wheel = true := by decide +kernel
theorem witness_PackedCardsReadBack :
    [(⟨14, 0⟩ : Card), ⟨2, 1⟩].Nodup ∧ ∀ c ∈ [(⟨14, 0⟩ : Card), ⟨2, 1⟩], 2 ≤ c.rank ∧ c.rank ≤ 14 := by decide
theorem witness_BpmPresenceUnitesTheLanes :
    wellFormedHand wheel = true ∧ straightLanes wheel = ⟨0x2011, 0x0102, 0x1004, 0x0008⟩ := by decide +kernel
theorem witness_BpmQuadsIntersectsTheLanes :
    wellFormedHand nines = true ∧ rankLanes nines = ⟨0x2100, 0x1100, 0x0900, 0x0100⟩ := by decide +kernel
theorem witness_BpmDistinctCountsTheRanks :
    wellFormedHand wheel = true ∧ (matcherNets wheel).present = 0x311E ∧ (0x311E : Mask).getLsbD 0 = false := by
  decide +kernel
theorem witness_BpmSuitcountCountsEachLane :
    wellFormedHand 0x0000_154A_0000_2001 = true ∧
      5 ≤ ((suitcountNets (rankLanes 0x0000_154A_0000_2001)).get 2).toNat := by decide +kernel
theorem witness_BpmSfdetectUnitesTheLanesStraights :
    unusedClear 0x0000_201F_1000_1000 = true ∧ wellFormedHand 0x0000_201F_1000_1000 = true ∧
      straightMask ((straightLanes 0x0000_201F_1000_1000).get 2) ≠ 0 := by decide +kernel
theorem witness_BpmStdetectIgnoresSuits : (0x311F : Mask) &&& 0x1F = 0x1F := by decide
theorem witness_BpmTallyPartitionsTheRanks :
    wellFormedHand tripsTwoPairs = true ∧ rankLanes tripsTwoPairs = ⟨0x1040, 0x1040, 0x0840, 0x0800⟩ := by decide +kernel
theorem witness_BitParallelTallyEqualsThePerRankForm : row6r.all realRanks = true := by decide
theorem witness_ReHibitKeepsTheHighestRank :
    (0x2000 : Mask).getLsbD 13 = true ∧ (∀ i : Nat, 13 < i → (0x2000 : Mask).getLsbD i = false) ∧
      popcount (0x2000 : Mask) = 1 :=
  ⟨by decide, fun i hi => BitVec.getLsbD_of_ge _ i hi, by decide⟩
theorem witness_ReTopkKeepsTheHighestRanks :
    (5 : BitVec 3).toNat ≤ 5 ∧ popcount (0x0006 : Mask) ≤ (5 : BitVec 3).toNat ∧ (topk 0x154A 5).getLsbD 3 = true ∧
      (0x154A : Mask).getLsbD 1 = true ∧ (topk 0x154A 5).getLsbD 1 = false := by decide +kernel
theorem witness_ReTopkKeepsTheHighestRanks_none :
    (0 : BitVec 3).toNat ≤ 5 ∧ popcount (0 : Mask) ≤ (0 : BitVec 3).toNat ∧ topkNet 0x2A54 0 = 0 := by decide +kernel
/-- A count of 7 stands in a word that decodes and runs as a step. -/
theorem witness_ReTopkKeepsTheHighestRanks_free : 5 < (7 : BitVec 3).toNat ∧
    seen (step (State.reset.withFetchWord 17 0b10101001010100_111)) (fun t => (t.pending, t.straightOut, t.hibitOut)) =
      some ([], 0, 0) := by decide
theorem witness_RePayloadPlacesBothMasks : realRanks 0x1800 = true ∧ realRanks 0x0400 = true := by decide
theorem witness_MaskOrderIsRankOrder : popcount (0x000E : Mask) = popcount (0x2006 : Mask) := by decide
theorem witness_CtTagIsOneHotAndRising : (7 : Nibble).toNat ≤ 8 ∧ (7 : Nibble) < 8 ∧ (8 : Nibble).toNat ≤ 8 := by decide
theorem witness_CtTagIsOneHotAndRising_free : 8 < (9 : Nibble).toNat := by decide
theorem witness_CtComposeJoinsTagAndPayload : (8 : Nibble).toNat ≤ 8 ∧ 8 < (9 : Nibble).toNat := by decide
theorem witness_CategoryDecidesThenPayload : (2 : Nibble) < 3 := by decide
theorem witness_WellFormedStepsKeepTheNarrowForms :
    NarrowForm wheelState ∧ wheelState.fetch = .ok (.evaluate wheel, wheelState) ∧
      (Instr.evaluate wheel).WellFormed ∧ ∃ t, step wheelState = .next t := by
  refine ⟨⟨?_, ?_, ?_, ?_⟩, rfl, rfl, ⟨_, rfl⟩⟩ <;> decide +kernel

/-! Operands outside the rows' forms run, and only the one value is free -/

theorem test_suitcount_other_lanes : seen (exec (.bpmSuitcount ⟨0x2001, 0x154A, 0, 0⟩) State.reset)
    (fun t => (t.matcher.lc.s1, t.matcher.lc.s2, t.matcher.lc.s3)) = some (6, 0, 0) := by decide
theorem test_quads_other_bits : seen (exec (.bpmQuads ⟨0x2101, 0x1101, 0x0901, 0x0101⟩) State.reset)
    (fun t => (t.matcher.quads.extractLsb' 1 13, t.matcher.or14)) = some (0x0080, 0) := by
  have h : ∀ b : Bool, ((0x0100 : Mask) ||| (BitVec.ofBool b).setWidth 14).extractLsb' 1 13 = 0x0080 := by decide
  exact congrArg (fun m => some (m, (0 : Mask))) (h _)
theorem test_tally_reads_no_bit_zero :
    seen (exec (.bpmTally ⟨0x2001, 0x0001, 0, 0⟩) State.reset)
      (fun t => (t.matcher.singles, t.matcher.pairs, t.matcher.trips)) = some (0x2000, 0, 0) := by decide
theorem test_compose_reserved_keeps_payload :
    seen (exec (.ctCompose 9 0x0100 0x2000) State.reset) (fun t => t.values.value &&& 0x0100_2000) =
      some 0x0100_2000 := by
  have h : ∀ w : Word, (w ||| 0x0100_2000) &&& 0x0100_2000 = 0x0100_2000 := fun w => by
    apply BitVec.eq_of_getLsbD_eq
    intro i hi
    simp only [BitVec.getLsbD_and, BitVec.getLsbD_or]
    cases w.getLsbD i <;> cases (0x0100_2000 : Word).getLsbD i <;> rfl
  exact congrArg some (h (Config.freeTag 9))

end Sys2Proof.Tests
end

section
/-! SUPPORT. The build-time latency (00_scope.md R6, 10_state.md R23): a machine keeps its number of stages. Only EVALUATE
touches the stage list, and the clock edge it makes rewrites the entries without adding or dropping one. -/

namespace Sys2Proof.Laws

open Sys2Proof.Machine

/-- Outside EVALUATE there is no clock edge: an instruction of any other row leaves every stage entry as it was. -/
theorem exec_keeps_stages_of_not_evaluate {i : Instr} {s t : State} (hi : i.op ≠ .evaluate)
    (h : exec i s = .next t) : t.stages = s.stages := by
  cases i with
  | evaluate hand => exact absurd rfl hi
  | _ => cases h; rfl

/-- EVALUATE clears or shifts the stages on its clock edge; either way their number stays (R28). -/
theorem exec_evaluate_keeps_latency {hand : Word} {s t : State} (h : exec (.evaluate hand) s = .next t) :
    t.latency = s.latency := by
  cases h
  calc (s.driveHand hand).clockEdge.sampleOutput.latency
      = (s.driveHand hand).stagesAfterEdge.length := by simp [State.latency]
    _ = s.latency := by rw [State.stagesAfterEdge_length, State.driveHand_stages, State.latency]

theorem exec_keeps_latency {i : Instr} {s t : State} (h : exec i s = .next t) : t.latency = s.latency := by
  by_cases hi : i.op = .evaluate
  · cases i with
    | evaluate hand => exact exec_evaluate_keeps_latency h
    | _ => cases hi
  · exact congrArg List.length (exec_keeps_stages_of_not_evaluate hi h)

@[simp] theorem accept_latency (s : State) (t : Transaction) (rest : List Transaction) :
    (s.accept t rest).latency = s.latency :=
  congrArg List.length (s.accept_stages t rest)

/-- Settles O8: a step performs one instruction, in the state itself or in the state that has taken the transaction. -/
theorem stepKeepsThePipelineLatency : Obligations.StepKeepsThePipelineLatency := by
  intro s t h
  obtain ⟨-, hexec⟩ | ⟨tr, rest, i, -, -, hexec⟩ := step_next_cases s t h
  · exact exec_keeps_latency hexec
  · exact (exec_keeps_latency hexec).trans (accept_latency s tr rest)

end Sys2Proof.Laws
end

section
/-! SUPPORT. The forms of the nets and results (10_state.md R27; R65, R66, R102, R125, R150 to R152): every function of the
datapath drives its net in its form. A form that asks for clear bits is read off bit by bit. -/

namespace Sys2Proof.Laws

open Sys2Proof.Machine

/-! Clear bits and lanes -/

/-- How a form of clear bits (a word that meets a mask nowhere) is established. -/
theorem and_beq_zero_of_bits {n : Nat} {v mask : BitVec n}
    (h : ∀ i < n, mask.getLsbD i = true → v.getLsbD i = false) : (v &&& mask == 0) = true := by
  rw [beq_iff_eq]
  apply BitVec.eq_of_getLsbD_eq
  intro i hi
  cases hm : mask.getLsbD i with
  | false => simp [hm]
  | true => simp [h i hi hm]

theorem perSuit_all_iff {α : Type} (p : α → Bool) (x : PerSuit α) : x.all p = true ↔ ∀ q : Suit, p (x.get q) = true := by
  simp [PerSuit.all, PerSuit.get, Fin.forall_fin_succ, and_assoc]

theorem realRanks_iff (m : Mask) : realRanks m = true ↔ m.getLsbD 0 = false := by
  simp only [realRanks, Bool.not_eq_true']

/-! The matcher's nets (R121 to R128) -/

theorem realRanks_quadRanks {r : PerSuit Mask} (h : r.all realRanks = true) : realRanks (quadRanks r) = true := by
  rw [realRanks_iff, ← Bool.not_eq_true, getLsbD_quadRanks]
  intro hall
  have h0 := (realRanks_iff _).mp ((perSuit_all_iff realRanks r).mp h 0)
  exact absurd (hall 0) (Bool.eq_false_iff.mp h0)

theorem realRanks_quadsNet {r : PerSuit Mask} (h : r.all realRanks = true) : realRanks (quadsNet r) = true := by
  rw [quadsNet_of_real r h]
  exact realRanks_quadRanks h

theorem realRanks_ranksHeld (r : PerSuit Mask) (c : Nat) : realRanks (ranksHeld r c) = true := by
  rw [realRanks_iff, getLsbD_ranksHeld]
  rfl

theorem countForm_countNet {m : Mask} (h : realRanks m = true) : countForm (countNet m) = true := by
  simpa [countForm, countNet_toNat] using popcount_le_of_real m h

theorem countForm_distinctNet (present : Mask) : countForm (distinctNet present) = true := by
  simpa [countForm] using distinctNet_le present

theorem countForm_suitcountNets (r : PerSuit Mask) : (suitcountNets r).all countForm = true := by
  rw [perSuit_all_iff]
  intro q
  simpa [countForm] using suitcountNet_le q (r.get q)

theorem straightForm_of_low_clear {m : Mask} (h : ∀ i < 4, m.getLsbD i = false) : straightForm m = true := by
  have hmask : ∀ i < 14, (0xF : Mask).getLsbD i = decide (i < 4) := by decide
  apply and_beq_zero_of_bits
  intro i hi hset
  rw [hmask i hi, decide_eq_true_eq] at hset
  exact h i hset

theorem getLsbD_straightMask_low (m : Mask) {i : Nat} (h : i < 4) : (straightMask m).getLsbD i = false := by
  simp [getLsbD_straightMask, show ¬ 4 ≤ i by omega]

theorem straightForm_straightMask (m : Mask) : straightForm (straightMask m) = true :=
  straightForm_of_low_clear fun _ hi => getLsbD_straightMask_low m hi

theorem straightForm_straightFlushMask (w : PerSuit Mask) : straightForm (straightFlushMask w) = true := by
  apply straightForm_of_low_clear
  intro i hi
  rw [straightFlushMask, ← Bool.not_eq_true, getLsbD_orLanes]
  rintro ⟨q, hq⟩
  rw [perSuit_get_map, getLsbD_straightMask_low _ hi] at hq
  cases hq

theorem matcherForm_matcherNets (hand : Word) : MatcherForm (matcherNets hand) := by
  have hcounts : ((rankLanes hand).map countNet).all countForm = true := by
    rw [perSuit_all_iff]
    intro q
    rw [perSuit_get_map]
    exact countForm_countNet ((perSuit_all_iff realRanks _).mp (rankLanes_real hand) q)
  exact ⟨rankLanes_real hand, presentRanks_real _, realRanks_ranksHeld _ 1, realRanks_ranksHeld _ 2,
    realRanks_ranksHeld _ 3, countForm_countNet (presentRanks_real _), hcounts,
    straightForm_straightFlushMask _, straightForm_straightMask _⟩

/-! The rank_encoder's results (R150 to R152) -/

/-- A mask with one bit at most counts at most one: the rank indices are all different. -/
theorem popcount_le_one_of_unique {n : Nat} {v : BitVec n} {j : Nat} (h : ∀ i, v.getLsbD i = true → i = j) :
    popcount v ≤ 1 :=
  calc popcount v
      ≤ (List.range n).count j := List.countP_mono_left fun i _ hi => beq_iff_eq.mpr (h i hi)
    _ ≤ 1 := List.nodup_iff_count_le_one.mp List.nodup_range j

theorem popcount_hibit_le_one (m : Mask) : popcount (hibit m) ≤ 1 := by
  obtain ⟨-, h⟩ | ⟨j, -, h, -, -⟩ := hibit_cases m
  · simp [h, popcount]
  · apply popcount_le_one_of_unique (j := j)
    intro i hi
    rw [h, BitVec.getLsbD_twoPow] at hi
    simp_all

theorem popcount_or_le {n : Nat} (x y : BitVec n) : popcount (x ||| y) ≤ popcount x + popcount y := by
  unfold popcount
  induction List.range n with
  | nil => simp
  | cons i rest ih =>
    have hbit : (if (x ||| y).getLsbD i then 1 else 0) ≤ (if x.getLsbD i then 1 else 0) + (if y.getLsbD i then 1 else 0) := by
      rw [BitVec.getLsbD_or]
      cases x.getLsbD i <;> simp
    simp only [List.countP_cons]
    omega

theorem popcount_topk_le (m : Mask) (k : Nat) : popcount (topk m k) ≤ k := by
  induction k generalizing m with
  | zero => simp [popcount]
  | succ k ih =>
    rw [topk_succ]
    calc popcount (hibit m ||| topk (m &&& ~~~hibit m) k)
        ≤ popcount (hibit m) + popcount (topk (m &&& ~~~hibit m) k) := popcount_or_le _ _
      _ ≤ k + 1 := by have := popcount_hibit_le_one m; have := ih (m &&& ~~~hibit m); omega

theorem popcount_topkNet_le {k : BitVec 3} (m : Mask) (h : k.toNat ≤ 5) : popcount (topkNet m k) ≤ 5 := by
  rw [topkNet_of_le m k h]
  exact (popcount_topk_le m k.toNat).trans h

theorem getLsbD_payloadOf (p k : Mask) {i : Nat} (hi : i < 32) :
    (payloadOf p k).getLsbD i = (decide (16 ≤ i) && p.getLsbD (i - 16) || k.getLsbD i) := by
  have hp : i - 16 < 32 := by omega
  simp only [payloadOf, BitVec.getLsbD_or, BitVec.getLsbD_shiftLeft, BitVec.getLsbD_setWidth, hi, hp, decide_true,
    Bool.true_and, ← Nat.not_lt, decide_not]

theorem payloadForm_payloadOf (p k : Mask) : payloadForm (payloadOf p k) = true := by
  have hmask : ∀ i < 32, (0xC000_C000 : BitVec 32).getLsbD i = decide (14 ≤ i % 16) := by decide
  apply and_beq_zero_of_bits
  intro i hi hset
  rw [hmask i hi, decide_eq_true_eq] at hset
  have hk : k.getLsbD i = false := BitVec.getLsbD_of_ge k i (by omega)
  have hp : 16 ≤ i → p.getLsbD (i - 16) = false := fun _ => BitVec.getLsbD_of_ge p _ (by omega)
  rw [getLsbD_payloadOf p k hi, hk]
  simpa using hp

/-! The category_tagger's results (R170, R171) -/

theorem code_le_eight (c : Category) : c.code.toNat ≤ 8 := by
  cases c <;> decide

theorem getLsbD_tagOf (cat : Nibble) (i : Nat) : (tagOf cat).getLsbD i = decide (i = 32 + cat.toNat) := by
  have hcat : 32 + cat.toNat < 64 := by omega
  simp [tagOf, ← BitVec.twoPow_eq, BitVec.getLsbD_twoPow, hcat, eq_comm]

theorem tagForm_tagOf {cat : Nibble} (h : cat.toNat ≤ 8) : tagForm (tagOf cat) = true := by
  rw [tagForm, List.any_eq_true]
  exact ⟨cat.toNat, List.mem_range.mpr (by omega), by simp⟩

theorem tagForm_tagNet {cat : Nibble} (h : cat.toNat ≤ 8) : tagForm (tagNet cat) = true := by
  rw [tagNet_of_le cat h]
  exact tagForm_tagOf h

/-- The tag stands alone above bit 31, where no payload reaches. -/
theorem valueOf_high (cat : Nibble) (p k : Mask) : valueOf cat p k &&& 0xFFFF_FFFF_0000_0000 = tagOf cat := by
  have hmask : ∀ i < 64, (0xFFFF_FFFF_0000_0000 : Word).getLsbD i = decide (32 ≤ i) := by decide
  apply BitVec.eq_of_getLsbD_eq
  intro i hi
  rw [BitVec.getLsbD_and, hmask i hi, valueOf, BitVec.getLsbD_or, getLsbD_tagOf, BitVec.getLsbD_setWidth]
  by_cases h : 32 ≤ i
  · rw [BitVec.getLsbD_of_ge (payloadOf p k) i h]
    simp [h]
  · simp [h, show i ≠ 32 + cat.toNat by omega]

/-- Below bit 32 stands the payload, where no tag reaches. -/
theorem valueOf_low (cat : Nibble) (p k : Mask) : (valueOf cat p k).setWidth 32 = payloadOf p k := by
  apply BitVec.eq_of_getLsbD_eq
  intro i hi
  have htag : (tagOf cat).getLsbD i = false := by simp [getLsbD_tagOf, show i ≠ 32 + cat.toNat by omega]
  rw [valueOf, BitVec.getLsbD_setWidth, BitVec.getLsbD_or, BitVec.getLsbD_setWidth, htag]
  simp [hi, show i < 64 by omega]

theorem valueForm_valueOf {cat : Nibble} (p k : Mask) (h : cat.toNat ≤ 8) : valueForm (valueOf cat p k) = true := by
  rw [valueForm, valueOf_high, valueOf_low, tagForm_tagOf h, payloadForm_payloadOf, Bool.and_self]

theorem valueForm_composeNet {cat : Nibble} (p k : Mask) (h : cat.toNat ≤ 8) :
    valueForm (composeNet cat p k) = true := by
  rw [composeNet_of_le cat p k h]
  exact valueForm_valueOf p k h

/-- Whatever the class of the hand, its value nets are computed from a category code of R27's range (R66, log 6). -/
theorem valueNets_eq_valueNetsOf (hand : Word) :
    ∃ cat p k, cat.toNat ≤ 8 ∧ valueNets hand = valueNetsOf cat p k := by
  unfold valueNets
  split
  · exact ⟨_, _, _, code_le_eight _, rfl⟩
  · refine ⟨_, _, _, ?_, rfl⟩
    rw [BitVec.toNat_ofNat]
    omega

theorem valueNetsForm_valueNets (hand : Word) : ValueNetsForm (valueNets hand) := by
  obtain ⟨cat, p, k, hcat, h⟩ := valueNets_eq_valueNetsOf hand
  rw [h]
  exact ⟨hcat, payloadForm_payloadOf p k⟩

theorem tagForm_and_valueForm_valueNets (hand : Word) :
    tagForm (valueNets hand).tag = true ∧ valueForm (valueNets hand).value = true := by
  obtain ⟨cat, p, k, hcat, h⟩ := valueNets_eq_valueNetsOf hand
  rw [h]
  exact ⟨tagForm_tagOf hcat, valueForm_valueOf p k hcat⟩

/-! The Encoding Adapter's result (R100, R102) -/

/-- PACK bit by bit: a lane's bits 13..1 are its chunk, bit 0 is the chunk's Ace again, bits 15 and 14 are clear. -/
theorem getLsbD_pack (m : CardMask) {i : Nat} (hi : i < 64) :
    (pack m).getLsbD i =
      if i % 16 = 0 then m.getLsbD (13 * (i / 16) + 12)
      else decide (i % 16 ≤ 13) && m.getLsbD (13 * (i / 16) + (i % 16 - 1)) := by
  have hdup : ∀ i < 64, handDup.getLsbD i = decide (i % 16 = 0) := by decide
  have hbit : (pack m).getLsbD i = ((!decide (i < 1) && (spreadChunks m).getLsbD (i - 1)) ||
      ((decide (13 + i < 64) && (spreadChunks m).getLsbD (i + 12)) && decide (i % 16 = 0))) := by
    simp only [pack, BitVec.getLsbD_or, BitVec.getLsbD_and, BitVec.getLsbD_shiftLeft, BitVec.getLsbD_ushiftRight,
      hdup i hi, hi, decide_true, Bool.true_and, show ¬ 13 + i < 1 by omega, decide_false, Bool.not_false,
      Bool.and_true, show 13 + i - 1 = i + 12 by omega]
  rw [hbit]
  by_cases h0 : i % 16 = 0
  · have hbelow : (!decide (i < 1) && (spreadChunks m).getLsbD (i - 1)) = false := by
      rw [getLsbD_spreadChunks m _ (by omega)]
      have : i < 1 ∨ ¬ (i - 1) % 16 < 13 := by omega
      rcases this with h | h <;> simp [h]
    rw [hbelow, getLsbD_spreadChunks m _ (by omega), show (i + 12) % 16 = 12 by omega,
      show (i + 12) / 16 = i / 16 by omega]
    simp [h0, show 13 + i < 64 by omega]
  · rw [getLsbD_spreadChunks m _ (by omega), show (i - 1) % 16 = i % 16 - 1 by omega,
      show (i - 1) / 16 = i / 16 by omega]
    simp only [h0, if_false, decide_false, Bool.and_false, Bool.or_false, show ¬ i < 1 by omega, Bool.not_false,
      Bool.true_and]
    congr 2
    exact propext (by omega)

theorem unusedClear_pack (m : CardMask) : unusedClear (pack m) = true := by
  have hmask : ∀ i < 64, handUnused.getLsbD i = decide (14 ≤ i % 16) := by decide
  apply and_beq_zero_of_bits
  intro i hi hset
  rw [hmask i hi, decide_eq_true_eq] at hset
  rw [getLsbD_pack m hi, if_neg (by omega), decide_eq_false (by omega), Bool.false_and]

theorem acesAgree_pack (m : CardMask) : acesAgree (pack m) = true := by
  rw [acesAgree, List.all_eq_true]
  intro q _
  rw [getLsbD_pack m (show 16 * q.val < 64 by omega), getLsbD_pack m (show 16 * q.val + 13 < 64 by omega)]
  simp [show (16 * q.val + 13) / 16 = q.val by omega]

end Sys2Proof.Laws
end

section
/-! SUPPORT. The machine's invariant and the narrow forms (10_state.md R26 to R29; log 2, 4, 14, 20): reset and power-up
have them, and each instruction keeps every part of them, so every step does. -/

namespace Sys2Proof.Laws

open Sys2Proof.Machine

/-! What one instruction does to each part -/

/-- A net is rewritten by EVALUATE and by its own function only, in its form each time. -/
theorem exec_keeps_matcherForm {i : Instr} {s t : State} (hs : MatcherForm s.matcher) (h : exec i s = .next t) :
    MatcherForm t.matcher := by
  obtain ⟨hr, hpresent, hsingles, hpairs, htrips, hn, hlc, hsfm, hstm⟩ := hs
  cases i with
  | evaluate hand => cases h; exact matcherForm_matcherNets hand
  | bpmLanes hand =>
    cases h; exact ⟨rankLanes_real hand, hpresent, hsingles, hpairs, htrips, hn, hlc, hsfm, hstm⟩
  | bpmPresence w => cases h; exact ⟨hr, presentRanks_real w, hsingles, hpairs, htrips, hn, hlc, hsfm, hstm⟩
  | bpmDistinct present =>
    cases h; exact ⟨hr, hpresent, hsingles, hpairs, htrips, countForm_distinctNet present, hlc, hsfm, hstm⟩
  | bpmSuitcount r =>
    cases h; exact ⟨hr, hpresent, hsingles, hpairs, htrips, hn, countForm_suitcountNets r, hsfm, hstm⟩
  | bpmSfdetect w =>
    cases h; exact ⟨hr, hpresent, hsingles, hpairs, htrips, hn, hlc, straightForm_straightFlushMask w, hstm⟩
  | bpmStdetect or14 =>
    cases h; exact ⟨hr, hpresent, hsingles, hpairs, htrips, hn, hlc, hsfm, straightForm_straightMask or14⟩
  | bpmTally r =>
    cases h
    exact ⟨hr, hpresent, realRanks_ranksHeld r 1, realRanks_ranksHeld r 2, realRanks_ranksHeld r 3, hn, hlc, hsfm, hstm⟩
  | _ => cases h; exact ⟨hr, hpresent, hsingles, hpairs, htrips, hn, hlc, hsfm, hstm⟩

theorem exec_keeps_valueNetsForm {i : Instr} {s t : State} (hs : ValueNetsForm s.values) (h : exec i s = .next t) :
    ValueNetsForm t.values := by
  obtain ⟨hcat, hpayload⟩ := hs
  cases i with
  | evaluate hand => cases h; exact valueNetsForm_valueNets hand
  | rePayload p k => cases h; exact ⟨hcat, payloadForm_payloadOf p k⟩
  | _ => cases h; exact ⟨hcat, hpayload⟩

theorem exec_keeps_resultForm {i : Instr} {s t : State} (hs : ResultForm s) (h : exec i s = .next t) :
    ResultForm t := by
  obtain ⟨hstraight, hhibit, hunused, haces⟩ := hs
  cases i with
  | bpmStraight m => cases h; exact ⟨straightForm_straightMask m, hhibit, hunused, haces⟩
  | reHibit m => cases h; exact ⟨hstraight, popcount_hibit_le_one m, hunused, haces⟩
  | pack m => cases h; exact ⟨hstraight, hhibit, unusedClear_pack m, acesAgree_pack m⟩
  | _ => cases h; exact ⟨hstraight, hhibit, hunused, haces⟩

/-- Sampling makes `value_o` agree with what drives it, whatever the state was (R26, R28). -/
theorem sampleOutput_portsAgree (s : State) : PortsAgree s.sampleOutput := by
  obtain ⟨hst, -, hw⟩ | ⟨hst, hset, -⟩ | ⟨last, hlast, -, hw⟩ | ⟨last, hlast, hv, -⟩ := s.sampledWord_cases
  · simp [PortsAgree, hst, hw]
  · simp [PortsAgree, hst, hset]
  · simp [PortsAgree, hlast, hw]
  · simp [PortsAgree, hlast, hv]

/-- EVALUATE samples `value_o` itself; no other instruction touches a port, a stage or `settled`, so there the agreement
has to hold before. -/
theorem exec_keeps_portsAgree {i : Instr} {s t : State} (hs : i.op ≠ .evaluate → PortsAgree s)
    (h : exec i s = .next t) : PortsAgree t := by
  cases i with
  | evaluate hand => cases h; exact sampleOutput_portsAgree _
  | _ => cases h; exact hs nofun

theorem exec_keeps_machineInv {i : Instr} {s t : State} (hm : MatcherForm s.matcher) (hv : ValueNetsForm s.values)
    (hr : ResultForm s) (hp : i.op ≠ .evaluate → PortsAgree s) (h : exec i s = .next t) : MachineInv t :=
  ⟨exec_keeps_matcherForm hm h, exec_keeps_valueNetsForm hv h, exec_keeps_resultForm hr h, exec_keeps_portsAgree hp h⟩

/-! The operands for which the spec states a narrow form (R27, R66, log 13) -/

theorem wellFormed_bpmQuads_iff (r : PerSuit Mask) : (Instr.bpmQuads r).WellFormed ↔ r.all realRanks = true := by
  simp [Instr.WellFormed, Instr.defect]

theorem wellFormed_reTopk_iff (m : Mask) (k : BitVec 3) : (Instr.reTopk m k).WellFormed ↔ k.toNat ≤ 5 := by
  simp [Instr.WellFormed, Instr.defect]

theorem wellFormed_ctTag_iff (cat : Nibble) : (Instr.ctTag cat).WellFormed ↔ cat.toNat ≤ 8 := by
  simp [Instr.WellFormed, Instr.defect]

theorem wellFormed_ctCompose_iff (cat : Nibble) (p k : Mask) :
    (Instr.ctCompose cat p k).WellFormed ↔ cat.toNat ≤ 8 := by
  simp [Instr.WellFormed, Instr.defect]

/-- The narrow forms hold after an instruction whose operands its row gives: the free values of log 20 are not drawn. -/
theorem exec_keeps_narrowForm {i : Instr} {s t : State} (hs : NarrowForm s) (hi : i.WellFormed)
    (h : exec i s = .next t) : NarrowForm t := by
  obtain ⟨hquads, htopk, htag, hvalue⟩ := hs
  cases i with
  | evaluate hand =>
    cases h
    obtain ⟨htag, hvalue⟩ := tagForm_and_valueForm_valueNets hand
    exact ⟨realRanks_quadRanks (rankLanes_real hand), htopk, htag, hvalue⟩
  | bpmQuads r =>
    cases h
    exact ⟨realRanks_quadsNet ((wellFormed_bpmQuads_iff r).mp hi), htopk, htag, hvalue⟩
  | reTopk m k =>
    cases h
    exact ⟨hquads, popcount_topkNet_le m ((wellFormed_reTopk_iff m k).mp hi), htag, hvalue⟩
  | ctTag cat =>
    cases h
    exact ⟨hquads, htopk, tagForm_tagNet ((wellFormed_ctTag_iff cat).mp hi), hvalue⟩
  | ctCompose cat p k =>
    cases h
    exact ⟨hquads, htopk, htag, valueForm_composeNet p k ((wellFormed_ctCompose_iff cat p k).mp hi)⟩
  | _ => cases h; exact ⟨hquads, htopk, htag, hvalue⟩

/-! Taking a transaction -/

/-- The decoder answers an instruction of the row that was named. -/
theorem decode_ok_op {op : Op} {nbits bits : Nat} {i : Instr} (h : decode op nbits bits = .ok i) : i.op = op := by
  unfold decode at h
  split at h
  · split at h
    · cases h
      cases op <;> rfl
    · cases h
  · cases h

theorem accept_resultForm (s : State) (t : Transaction) (rest : List Transaction) :
    ResultForm (s.accept t rest) ↔ ResultForm s := by
  simp [ResultForm]

theorem accept_narrowForm (s : State) (t : Transaction) (rest : List Transaction) :
    NarrowForm (s.accept t rest) ↔ NarrowForm s := by
  simp [NarrowForm]

/-- Only an EVALUATE sets `settled`; taking any other transaction leaves what `value_o` has to agree with. -/
theorem accept_portsAgree (s : State) {t : Transaction} (rest : List Transaction) (ht : t.op ≠ .evaluate) :
    PortsAgree (s.accept t rest) ↔ PortsAgree s := by
  simp [PortsAgree, ht]

/-- Settles O6: each instruction keeps every part of the invariant. A transaction that sets `settled` is an EVALUATE, which
samples `value_o` anew. -/
theorem everyStepKeepsTheMachineInvariant : Obligations.EveryStepKeepsTheMachineInvariant := by
  intro s t hs h
  obtain ⟨hm, hv, hr, hp⟩ := hs
  obtain ⟨-, hexec⟩ | ⟨tr, rest, i, -, hd, hexec⟩ := step_next_cases s t h
  · exact exec_keeps_machineInv hm hv hr (fun _ => hp) hexec
  · have hports : i.op ≠ .evaluate → PortsAgree (s.accept tr rest) := fun hi =>
      (accept_portsAgree s rest (decode_ok_op hd ▸ hi)).mpr hp
    exact exec_keeps_machineInv (by simpa using hm) (by simpa using hv) ((accept_resultForm s tr rest).mpr hr) hports
      hexec

/-- A step runs what `fetch` answers. -/
theorem step_of_fetch {s s' : State} {i : Instr} (h : s.fetch = .ok (i, s')) : step s = exec i s' := by
  simp [step, h]

theorem fetch_keeps_narrowForm {s s' : State} {i : Instr} (hs : NarrowForm s) (h : s.fetch = .ok (i, s')) :
    NarrowForm s' := by
  cases hp : s.pending with
  | nil =>
    rw [s.fetch_of_nil hp] at h
    cases h
    exact hs
  | cons t rest =>
    rw [s.fetch_of_cons t rest hp] at h
    cases hd : decode t.op t.nbits t.bits with
    | error e => simp [hd, Except.map] at h
    | ok j =>
      rw [hd] at h
      cases h
      exact (accept_narrowForm s t rest).mpr hs

/-- Settles O56: taking the transaction writes no net, and a well-formed instruction keeps the narrow forms. -/
theorem wellFormedStepsKeepTheNarrowForms : Obligations.WellFormedStepsKeepTheNarrowForms := by
  intro s t s' i hs hfetch hi h
  exact exec_keeps_narrowForm (fetch_keeps_narrowForm hs hfetch) hi (step_of_fetch hfetch ▸ h)

/-! The driven value by class of input (R191, R203) -/

theorem classify_of_sentinel {hand : Word} (h : sentinelCondition (matcherNets hand).n = true) :
    classify hand = sentinel := by
  rw [classify, if_pos h]

theorem evaluateWord_of_sentinel {hand : Word} (h : sentinelCondition (matcherNets hand).n = true) :
    evaluateWord hand = sentinel := by
  obtain ⟨-, -, hword⟩ | ⟨hs, -⟩ | ⟨hs, -⟩ := evaluateWord_cases hand
  · exact hword
  all_goals exact absurd h (Bool.eq_false_iff.mp hs)

theorem evaluateWord_of_wellFormed {hand : Word} (h : wellFormedHand hand = true) : evaluateWord hand = classify hand := by
  obtain ⟨hs, -, hword⟩ | ⟨hs, -, -, hword⟩ | ⟨-, hw, -⟩ := evaluateWord_cases hand
  · rw [hword, classify_of_sentinel hs]
  · rw [hword, classify_of_not_sentinel hand hs]
  · exact absurd h (Bool.eq_false_iff.mp hw)

/-! Reset and power-up (R29, R260 to R262) -/

@[simp] theorem resetStages_length (latency : Nat) : (resetStages latency).length = latency := by
  simp [resetStages]

theorem resetStages_not_valid {latency : Nat} {e : Stage} (h : e ∈ resetStages latency) : e.valid = false := by
  obtain ⟨k, -, rfl⟩ := List.mem_map.mp h
  rfl

theorem resetWith_matcherForm (latency : Nat) : MatcherForm (State.resetWith latency).matcher :=
  matcherForm_matcherNets 0

theorem resetWith_valueNetsForm (latency : Nat) : ValueNetsForm (State.resetWith latency).values :=
  valueNetsForm_valueNets 0

theorem resetWith_resultForm (latency : Nat) : ResultForm (State.resetWith latency) := by
  have hzeros : straightForm 0 = true ∧ popcount (0 : Mask) ≤ 1 ∧ unusedClear 0 = true ∧ acesAgree 0 = true := by decide
  exact hzeros

theorem resetWith_narrowForm (latency : Nat) : NarrowForm (State.resetWith latency) := by
  have htopk : popcount (0 : Mask) ≤ 5 := by decide
  obtain ⟨htag, hvalue⟩ := tagForm_and_valueForm_valueNets 0
  exact ⟨realRanks_quadRanks (rankLanes_real 0), htopk, htag, hvalue⟩

/-- Nothing is valid in a wrapper after reset, and the combinational block shows the value of the word on `hand_i`. -/
theorem resetWith_portsAgree (latency : Nat) : PortsAgree (State.resetWith latency) := by
  unfold PortsAgree
  cases h : (State.resetWith latency).stages.getLast? with
  | none =>
    have hnil : resetStages latency = [] := List.getLast?_eq_none_iff.mp h
    have hzero : latency = 0 := by simpa using congrArg List.length hnil
    simp [State.resetWith, hzero]
  | some last => simp [resetStages_not_valid (List.mem_of_getLast? h)]

theorem resetWith_machineInv (latency : Nat) : MachineInv (State.resetWith latency) :=
  ⟨resetWith_matcherForm latency, resetWith_valueNetsForm latency, resetWith_resultForm latency,
    resetWith_portsAgree latency⟩

/-- Power-up differs from reset in the stages and in what is sampled from them. -/
theorem powerUp_machineInv (latency : Nat) : MachineInv (State.powerUp latency) :=
  ⟨resetWith_matcherForm latency, resetWith_valueNetsForm latency, resetWith_resultForm latency,
    sampleOutput_portsAgree _⟩

theorem powerUp_narrowForm (latency : Nat) : NarrowForm (State.powerUp latency) :=
  resetWith_narrowForm latency

/-- Settles O7: the nets are those of the hand 0, the results are zeros, and the ports agree. -/
theorem machineInvariantAfterResetAndPowerUp : Obligations.MachineInvariantAfterResetAndPowerUp :=
  ⟨⟨resetWith_machineInv _, resetWith_narrowForm _⟩, fun latency =>
    ⟨⟨resetWith_machineInv latency, resetWith_narrowForm latency⟩, powerUp_machineInv latency,
      powerUp_narrowForm latency⟩⟩

theorem resetWith_outValid {latency : Nat} (h : 0 < latency) : (State.resetWith latency).outValid = some false := by
  cases hlast : (resetStages latency).getLast? with
  | none =>
    have hzero := congrArg List.length (List.getLast?_eq_none_iff.mp hlast)
    rw [resetStages_length, List.length_nil] at hzero
    omega
  | some last =>
    have hout : (State.resetWith latency).outValid = (some last).map Stage.valid := congrArg _ hlast
    rw [hout, Option.map_some, resetStages_not_valid (List.mem_of_getLast? hlast)]

/-- The hand 0 holds no rank, so it is on the sentinel path (R191). -/
theorem sentinelCondition_zero : sentinelCondition (matcherNets 0).n = true := by decide

/-- Settles O10: the reset entries are not valid; the combinational block has none, and shows the sentinel. -/
theorem resetLeavesNoValidResult : Obligations.ResetLeavesNoValidResult := by
  have hvalue : State.reset.valueO = sentinel := evaluateWord_of_sentinel sentinelCondition_zero
  have hclassify : classify State.reset.handI = sentinel := classify_of_sentinel sentinelCondition_zero
  exact ⟨rfl, fun latency h => ⟨resetStages_length latency, resetWith_outValid h, fun _ => resetStages_not_valid⟩,
    rfl, rfl, hvalue.trans hclassify.symm, hvalue⟩

end Sys2Proof.Laws
end

section
/-! SUPPORT. One EVALUATE on the wrapper (R28, 44_poker_hand_classifier.md): what its edge and its sample do to the stages,
the output port and the count of free values, and what it leaves as it was. -/

namespace Sys2Proof.Laws

open Sys2Proof.Machine

theorem exec_evaluate (hand : Word) (s : State) :
    exec (.evaluate hand) s = .next (s.driveHand hand).clockEdge.sampleOutput := rfl

/-- With `rst = 0` the edge of an EVALUATE shifts the hand's value in (R28). -/
theorem evaluate_stages_of_not_rst {s : State} (hand : Word) (h : s.rst = false) :
    (s.driveHand hand).clockEdge.sampleOutput.stages = shiftStages ⟨s.inValid, evaluateWord hand⟩ s.stages := by
  obtain ⟨hrst, -⟩ | ⟨-, hshift⟩ := (s.driveHand hand).stagesAfterEdge_cases
  · rw [State.driveHand_rst, h] at hrst
    cases hrst
  · simpa using hshift

theorem stagesAfterEdge_ne_nil {s : State} (h : s.stages ≠ []) : s.stagesAfterEdge ≠ [] := by
  rw [← List.length_pos_iff, s.stagesAfterEdge_length, List.length_pos_iff]
  exact h

/-- A sample draws no free value when it is exact: of the settled combinational block, or of a valid last entry. -/
theorem sampledWord_not_drawn {s : State}
    (h : s.stages = [] ∧ s.settled = true ∨ s.outValid = some true) : s.sampledWord.2 = false := by
  obtain ⟨-, -, hw⟩ | ⟨hst, hset, -⟩ | ⟨last, -, -, hw⟩ | ⟨last, hlast, hv, -⟩ := s.sampledWord_cases
  · rw [hw]
  · simp [hst, hset, State.outValid] at h
  · rw [hw]
  · have hne : s.stages ≠ [] := by rintro hnil; simp [hnil] at hlast
    simp [hne, State.outValid, hlast, hv] at h

/-- Settles O19: the fields are read off one update after the other; a free value is drawn by a reset edge, or by a sample
that is not exact. -/
theorem evaluateFrame : Obligations.EvaluateFrame := by
  intro s hand
  refine ⟨_, exec_evaluate hand s, rfl, rfl, rfl, rfl, rfl, rfl, rfl, rfl, rfl, rfl, rfl,
    exec_evaluate_keeps_latency (exec_evaluate hand s), fun hst => ?_, fun hst hset => ?_, fun hout hrst => ?_⟩
  · exact State.stagesAfterEdge_of_nil _ hst
  · have hnil : (s.driveHand hand).stagesAfterEdge = [] := State.stagesAfterEdge_of_nil _ hst
    have hdrawn := sampledWord_not_drawn (s := (s.driveHand hand).clockEdge) (.inl ⟨hnil, hset⟩)
    simp [hdrawn, hst]
  · have hdrawn := sampledWord_not_drawn (s := (s.driveHand hand).clockEdge) (.inr hout)
    simp [hdrawn, hrst]

/-- While `out_valid` is 1, `value_o` is the last entry's value (R28). -/
theorem sampledWord_of_valid_last {s : State} {last : Stage} (hlast : s.stages.getLast? = some last)
    (hv : last.valid = true) : s.sampledWord.1 = last.val := by
  simp [State.sampledWord, hlast, hv]

/-- Settles O20: the edge is a shift of the stages, and the sample looks at the last entry after it. -/
theorem evaluateShiftsTheWrapper : Obligations.EvaluateShiftsTheWrapper := by
  intro s hand hne hrst
  have hshift := evaluate_stages_of_not_rst hand hrst
  have hhead := shiftStages_head ⟨s.inValid, evaluateWord hand⟩ s.stages hne
  have hlength : (s.driveHand hand).stagesAfterEdge.length = s.stages.length := State.stagesAfterEdge_length _
  obtain ⟨last, hlast⟩ : ∃ last, (s.driveHand hand).stagesAfterEdge.getLast? = some last :=
    ⟨_, List.getLast?_eq_some_getLast (stagesAfterEdge_ne_nil (s := s.driveHand hand) hne)⟩
  refine ⟨_, last, exec_evaluate hand s, ?_, ?_, fun hw => ?_, fun k hk => ?_, ?_, ?_, fun hv => ?_⟩
  · exact hlength
  · rw [hshift, hhead]
  · rw [hshift, hhead, evaluateWord_of_wellFormed hw]
  · rw [hshift, shiftStages_succ _ _ k hk]
  · rw [← hlength]
    exact List.getLast?_eq_getElem?.symm.trans hlast
  · exact congrArg (Option.map Stage.valid) hlast
  · exact sampledWord_of_valid_last hlast hv

end Sys2Proof.Laws
end

section
/-! SUPPORT. One EVALUATE on the settled combinational block (R26, R45, R46): the state it gives, and that a later EVALUATE
overwrites all it wrote. -/

namespace Sys2Proof.Laws

open Sys2Proof.Machine

/-- The settled combinational block's answer to a hand: the nets follow `hand_i`, and `value_o` shows the hand's value. -/
def showValue (hand : Word) (s : State) : State := { s.driveHand hand with valueO := evaluateWord hand }

@[simp] theorem showValue_stages (hand : Word) (s : State) : (showValue hand s).stages = s.stages := rfl
@[simp] theorem showValue_settled (hand : Word) (s : State) : (showValue hand s).settled = s.settled := rfl

/-- What one hand wrote, the next overwrites. -/
@[simp] theorem showValue_showValue (h1 h2 : Word) (s : State) : showValue h2 (showValue h1 s) = showValue h2 s := rfl

/-- A clock edge does nothing to a block without stages (R28). -/
theorem clockEdge_of_nil {s : State} (h : s.stages = []) : s.clockEdge = s := by
  have hstages : s.stagesAfterEdge = s.stages := by rw [s.stagesAfterEdge_of_nil h, h]
  have hdraws : (if s.rst then s.draws + s.stages.length else s.draws) = s.draws := by simp [h]
  rw [State.clockEdge, hstages, hdraws]

/-- A sample of the settled combinational block is the value of the hand on `hand_i`, and draws nothing (R26). -/
theorem sampleOutput_of_settled {s : State} (hst : s.stages = []) (hset : s.settled = true) :
    s.sampleOutput = { s with valueO := evaluateWord s.handI } := by
  have hword : s.sampledWord = (evaluateWord s.handI, false) := by simp [State.sampledWord, hst, hset]
  simp [State.sampleOutput, hword]

theorem exec_evaluate_of_settled {s : State} (hand : Word) (hst : s.stages = []) (hset : s.settled = true) :
    exec (.evaluate hand) s = .next (showValue hand s) := by
  have hedge : (s.driveHand hand).clockEdge = s.driveHand hand := clockEdge_of_nil hst
  have hsample : (s.driveHand hand).sampleOutput = showValue hand s := sampleOutput_of_settled hst hset
  rw [exec_evaluate, hedge, hsample]

/-- Settles O31: the block stays combinational and settled, and the second hand overwrites what the first wrote. -/
theorem evaluationsDoNotInteract : Obligations.EvaluationsDoNotInteract := by
  intro s h1 h2 hst hset
  refine ⟨showValue h1 s, showValue h2 s, exec_evaluate_of_settled h1 hst hset, ?_, exec_evaluate_of_settled h2 hst hset⟩
  have hsecond := exec_evaluate_of_settled h2 ((showValue_stages h1 s).trans hst) ((showValue_settled h1 s).trans hset)
  rwa [showValue_showValue] at hsecond

/-- Settles O30: two evaluations that do not interact, of one word. -/
theorem evaluationIsIdempotent : Obligations.EvaluationIsIdempotent := by
  intro s hand hst hset
  obtain ⟨t, u, hfirst, hsecond, halone⟩ := evaluationsDoNotInteract s hand hand hst hset
  exact ⟨t, hfirst, hsecond.trans (halone.symm.trans hfirst)⟩

end Sys2Proof.Laws
end

section
/-! SUPPORT. The codec and the step (opcode_table.json, 30_encoding.md R60, R61, R73): every carrier a row accepts has room
for the row's bits, so an instruction's encoding passes both checks of the decoder in each of them. -/

namespace Sys2Proof.Laws

open Sys2Proof.Machine

/-- No carrier of a row is narrower than the row (log 12). -/
theorem width_le_of_acceptsWidth {op : Op} {nbits : Nat} (h : op.acceptsWidth nbits = true) : op.width ≤ nbits := by
  have hbytes : op.width ≤ op.byteWidth := by unfold Op.byteWidth; omega
  simp only [Op.acceptsWidth, Bool.or_eq_true, Bool.and_eq_true, beq_iff_eq] at h
  obtain (rfl | rfl) | ⟨rfl, rfl⟩ := h
  · exact le_rfl
  · exact hbytes
  · decide

theorem encode_fits (i : Instr) : EncodingFits.Statement i := by
  cases i with
  | evaluate hand => exact EncodingFits.evaluate hand
  | pack mask => exact EncodingFits.pack mask
  | bpmLanes hand => exact EncodingFits.bpmLanes hand
  | bpmPresence w => exact EncodingFits.bpmPresence w
  | bpmQuads r => exact EncodingFits.bpmQuads r
  | bpmDistinct present => exact EncodingFits.bpmDistinct present
  | bpmSuitcount r => exact EncodingFits.bpmSuitcount r
  | bpmStraight m => exact EncodingFits.bpmStraight m
  | bpmSfdetect w => exact EncodingFits.bpmSfdetect w
  | bpmStdetect or14 => exact EncodingFits.bpmStdetect or14
  | bpmTally r => exact EncodingFits.bpmTally r
  | reHibit m => exact EncodingFits.reHibit m
  | reTopk m k => exact EncodingFits.reTopk m k
  | rePayload p k => exact EncodingFits.rePayload p k
  | ctTag cat => exact EncodingFits.ctTag cat
  | ctCompose cat p k => exact EncodingFits.ctCompose cat p k

theorem operandsOf_encode (i : Instr) : operandsOf i.op (encode i) = i := by
  cases i with
  | evaluate hand => exact OperandsRoundTrip.evaluate hand
  | pack mask => exact OperandsRoundTrip.pack mask
  | bpmLanes hand => exact OperandsRoundTrip.bpmLanes hand
  | bpmPresence w => exact OperandsRoundTrip.bpmPresence w
  | bpmQuads r => exact OperandsRoundTrip.bpmQuads r
  | bpmDistinct present => exact OperandsRoundTrip.bpmDistinct present
  | bpmSuitcount r => exact OperandsRoundTrip.bpmSuitcount r
  | bpmStraight m => exact OperandsRoundTrip.bpmStraight m
  | bpmSfdetect w => exact OperandsRoundTrip.bpmSfdetect w
  | bpmStdetect or14 => exact OperandsRoundTrip.bpmStdetect or14
  | bpmTally r => exact OperandsRoundTrip.bpmTally r
  | reHibit m => exact OperandsRoundTrip.reHibit m
  | reTopk m k => exact OperandsRoundTrip.reTopk m k
  | rePayload p k => exact OperandsRoundTrip.rePayload p k
  | ctTag cat => exact OperandsRoundTrip.ctTag cat
  | ctCompose cat p k => exact OperandsRoundTrip.ctCompose cat p k

/-- Bits within a row's width pass the decoder in every carrier the row accepts. -/
theorem decode_of_lt_width {op : Op} {nbits bits : Nat} (haccept : op.acceptsWidth nbits = true)
    (hbits : bits < 2 ^ op.width) : decode op nbits bits = .ok (operandsOf op bits) := by
  have hcarrier : bits < 2 ^ nbits :=
    hbits.trans_le (Nat.pow_le_pow_right Nat.zero_lt_two (width_le_of_acceptsWidth haccept))
  have hfit : op.bitsFit nbits bits = true := by simp [Op.bitsFit, hcarrier, hbits]
  rw [decode, if_pos haccept, if_pos hfit]

/-- Settles O1: the encoding lies within its row, and the row's fields, cut out of it, are the operands. -/
theorem decodeOfEncodeIsTheInstruction : Obligations.DecodeOfEncodeIsTheInstruction := by
  intro i nbits haccept
  rw [decode_of_lt_width haccept (encode_fits i), operandsOf_encode]

theorem accept_of_evaluate (s : State) {t : Transaction} (rest : List Transaction) (h : t.op = .evaluate) :
    s.accept t rest = { s with pending := rest, rst := t.rst, inValid := t.inValid, settled := t.settled } :=
  if_pos h

theorem accept_of_not_evaluate (s : State) {t : Transaction} (rest : List Transaction) (h : t.op ≠ .evaluate) :
    s.accept t rest = { s with pending := rest } :=
  if_neg h

/-- Settles O5: what `fetch` answers for a pending transaction that decodes, for none, and for one that does not decode. -/
theorem stepPerformsTheOldestTransaction : Obligations.StepPerformsTheOldestTransaction := by
  refine ⟨fun s t rest i hpending hdecode => ?_, fun s hpending => step_of_fetch (s.fetch_of_nil hpending),
    fun s t rest e hpending hdecode => ?_⟩
  · have hfetch : s.fetch = .ok (i, s.accept t rest) := by
      rw [s.fetch_of_cons t rest hpending, hdecode]
      rfl
    exact ⟨s.accept t rest, step_of_fetch hfetch, accept_of_evaluate s rest, accept_of_not_evaluate s rest⟩
  · have hfetch : s.fetch = .error e := by
      rw [s.fetch_of_cons t rest hpending, hdecode]
      rfl
    rw [step, hfetch]

end Sys2Proof.Laws
end

section
/-! SUPPORT. Cards through the Encoding Adapter (30_encoding.md R60, R62, 40_encoding_adapter.md R100): which bit of the card
mask and of the packed hand stands for a card. -/

namespace Sys2Proof.Laws

open Sys2Proof.Machine

theorem mem_ranksDown_iff (rank : Nat) : rank ∈ ranksDown ↔ 2 ≤ rank ∧ rank ≤ 14 := by
  simp only [ranksDown, List.mem_cons, List.not_mem_nil, or_false]
  omega

theorem mem_cardsOf_iff (hand : Word) (c : Card) :
    c ∈ cardsOf hand ↔ (2 ≤ c.rank ∧ c.rank ≤ 14) ∧ hand.getLsbD (handBit c.rank c.suit) = true := by
  obtain ⟨rank, q⟩ := c
  simp [cardsOf, mem_ranksDown_iff, Card.mk.injEq]

/-- A packed hand's cards are listed once each: the suits differ, and within a suit the ranks do. -/
theorem nodup_cardsOf (hand : Word) : (cardsOf hand).Nodup := by
  have hranks : ranksDown.Nodup := by decide
  rw [cardsOf, List.nodup_flatMap]
  refine ⟨fun q _ => (hranks.filter _).map fun a b h => (Card.mk.inj h).1, (List.nodup_finRange 4).imp ?_⟩
  intro q q' hne c hc hc'
  obtain ⟨rank, -, rfl⟩ := List.mem_map.mp hc
  obtain ⟨rank', -, heq⟩ := List.mem_map.mp hc'
  exact hne (Card.mk.inj heq).2.symm

/-- PACK moves the bit of each card from its place in the mask to its place in the hand (R60, R62). -/
theorem getLsbD_pack_handBit (m : CardMask) {rank : Nat} (q : Suit) (hlo : 2 ≤ rank) (hhi : rank ≤ 14) :
    (pack m).getLsbD (handBit rank q) = m.getLsbD (cardBit rank q) := by
  have hmod : handBit rank q % 16 = rank - 1 := by unfold handBit; omega
  have hdiv : handBit rank q / 16 = q.val := by unfold handBit; omega
  rw [getLsbD_pack m (by unfold handBit; omega), hmod, hdiv, if_neg (by omega), decide_eq_true (by omega),
    Bool.true_and, cardBit, Nat.sub_sub]

theorem cardBit_lt {rank : Nat} (q : Suit) (hhi : rank ≤ 14) : cardBit rank q < 52 := by
  unfold cardBit
  omega

/-- Different cards have different bits in the card mask. -/
theorem cardBit_inj {rank rank' : Nat} {q q' : Suit} (hlo : 2 ≤ rank) (hhi : rank ≤ 14) (hlo' : 2 ≤ rank')
    (hhi' : rank' ≤ 14) (h : cardBit rank q = cardBit rank' q') : rank = rank' ∧ q = q' := by
  unfold cardBit at h
  exact ⟨by omega, Fin.ext (by omega)⟩

/-- What setting one bit per card, on top of a mask, does to a bit. -/
theorem getLsbD_foldl_setCards (cards : List Card) (m : CardMask) {i : Nat} (hi : i < 52) :
    (cards.foldl (fun m c => m ||| ((1 : CardMask) <<< cardBit c.rank c.suit)) m).getLsbD i = true ↔
      m.getLsbD i = true ∨ ∃ c ∈ cards, cardBit c.rank c.suit = i := by
  induction cards generalizing m with
  | nil => simp
  | cons c rest ih =>
    have hbit : ((1 : CardMask) <<< cardBit c.rank c.suit).getLsbD i = true ↔ cardBit c.rank c.suit = i := by
      simp only [BitVec.ofNat_eq_ofNat, ← BitVec.twoPow_eq, BitVec.getLsbD_twoPow, Bool.and_eq_true, decide_eq_true_eq]
      omega
    rw [List.foldl_cons, ih, BitVec.getLsbD_or, Bool.or_eq_true, hbit, List.exists_mem_cons_iff, or_assoc]

/-- Settles O38: both lists hold each card once, and a card is in one iff its bit is set in the mask and so in the hand. -/
theorem packedCardsReadBack : Obligations.PackedCardsReadBack := by
  intro cards hnodup hranks
  rw [List.perm_ext_iff_of_nodup (nodup_cardsOf _) hnodup]
  rintro ⟨rank, q⟩
  rw [mem_cardsOf_iff]
  constructor
  · rintro ⟨⟨hlo, hhi⟩, hbit⟩
    rw [getLsbD_pack_handBit _ q hlo hhi, maskOfCards, getLsbD_foldl_setCards _ _ (cardBit_lt q hhi)] at hbit
    obtain hzero | ⟨⟨rank', q'⟩, hmem, heq⟩ := hbit
    · simp at hzero
    · obtain ⟨hlo', hhi'⟩ := hranks _ hmem
      obtain ⟨rfl, rfl⟩ := cardBit_inj hlo' hhi' hlo hhi heq
      exact hmem
  · intro hmem
    obtain ⟨hlo, hhi⟩ := hranks _ hmem
    rw [getLsbD_pack_handBit _ q hlo hhi, maskOfCards, getLsbD_foldl_setCards _ _ (cardBit_lt q hhi)]
    exact ⟨⟨hlo, hhi⟩, .inr ⟨_, hmem, rfl⟩⟩

end Sys2Proof.Laws
end

section
/-! SUPPORT. Counting set bits (00_scope.md R8), and what HIBIT and TOPK keep of a mask (42_rank_encoder.md R150, R151): part of
its bits, as many as they are asked for. -/

namespace Sys2Proof.Laws

open Sys2Proof.Machine

/-! The number of set bits -/

theorem popcount_eq_sum {n : Nat} (v : BitVec n) : popcount v = ∑ i ∈ Finset.range n, (v.getLsbD i).toNat := by
  have hupTo (bound : Nat) : (List.range bound).countP (fun i => v.getLsbD i) =
      ∑ i ∈ Finset.range bound, (v.getLsbD i).toNat := by
    induction bound with
    | zero => rfl
    | succ b ih =>
      rw [List.range_succ, List.countP_append, ih, Finset.sum_range_succ]
      cases hb : v.getLsbD b <;> simp [hb]
  exact hupTo n

theorem popcount_split {n : Nat} (m x : BitVec n) : popcount m = popcount (m &&& x) + popcount (m &&& ~~~x) := by
  simp only [popcount_eq_sum, ← Finset.sum_add_distrib]
  refine Finset.sum_congr rfl fun i hi => ?_
  rw [BitVec.getLsbD_and, BitVec.getLsbD_and, BitVec.getLsbD_not, decide_eq_true (Finset.mem_range.mp hi)]
  cases m.getLsbD i <;> cases x.getLsbD i <;> rfl

theorem popcount_mono {n : Nat} {x m : BitVec n} (h : ∀ i, x.getLsbD i = true → m.getLsbD i = true) :
    popcount x ≤ popcount m :=
  List.countP_mono_left fun i _ => h i

theorem popcount_le_diff_add {n : Nat} (m x : BitVec n) : popcount m ≤ popcount (m &&& ~~~x) + popcount x := by
  have hpart : popcount (m &&& x) ≤ popcount x := popcount_mono fun i hi => by
    rw [BitVec.getLsbD_and, Bool.and_eq_true] at hi
    exact hi.2
  have := popcount_split m x
  omega

@[simp] theorem popcount_zero {n : Nat} : popcount 0#n = 0 := by
  simp [popcount]

theorem popcount_pos_iff {n : Nat} (m : BitVec n) : 0 < popcount m ↔ m ≠ 0 := by
  constructor
  · rintro h rfl
    simp at h
  · intro h
    rw [popcount, List.countP_pos_iff]
    by_contra hnone
    apply h
    apply BitVec.eq_of_getLsbD_eq
    intro i hi
    by_contra hbit
    exact hnone ⟨i, List.mem_range.mpr hi, by simpa using hbit⟩

theorem popcount_eq_zero_iff {n : Nat} (m : BitVec n) : popcount m = 0 ↔ m = 0 := by
  rw [← not_iff_not, ← Ne, ← Nat.pos_iff_ne_zero, popcount_pos_iff]

theorem popcount_twoPow {n j : Nat} (h : j < n) : popcount (BitVec.twoPow n j) = 1 := by
  apply le_antisymm
  · exact popcount_le_one_of_unique (j := j) fun i hi => by
      rw [BitVec.getLsbD_twoPow, Bool.and_eq_true, decide_eq_true_eq, decide_eq_true_eq] at hi
      exact hi.2.symm
  · rw [Nat.succ_le_iff, popcount_pos_iff]
    intro hzero
    have hbit := congrArg (fun v => v.getLsbD j) hzero
    simp [h] at hbit

/-! Part of a mask -/

/-- Every bit of the one mask is a bit of the other. -/
def SubMask (x m : Mask) : Prop := ∀ i : Nat, x.getLsbD i = true → m.getLsbD i = true

theorem subMask_and_left (m x : Mask) : SubMask (m &&& x) m := by
  intro i hi
  rw [BitVec.getLsbD_and, Bool.and_eq_true] at hi
  exact hi.1

theorem SubMask.trans {x y z : Mask} (hxy : SubMask x y) (hyz : SubMask y z) : SubMask x z :=
  fun i hi => hyz i (hxy i hi)

theorem SubMask.real {x m : Mask} (h : SubMask x m) (hm : realRanks m = true) : realRanks x = true := by
  rw [realRanks_iff] at hm ⊢
  cases hx : x.getLsbD 0 with
  | false => rfl
  | true => exact absurd (h 0 hx) (Bool.eq_false_iff.mp hm)

/-- Taking part of a mask away leaves the rest of its count. -/
theorem SubMask.popcount_eq {x m : Mask} (h : SubMask x m) : popcount m = popcount x + popcount (m &&& ~~~x) := by
  have hpart : m &&& x = x := by
    apply BitVec.eq_of_getLsbD_eq
    intro i _
    rw [BitVec.getLsbD_and]
    cases hx : x.getLsbD i with
    | false => exact Bool.and_false _
    | true => rw [h i hx]; rfl
  rw [popcount_split m x, hpart]

/-- A part of a mask with as many ranks is the mask. -/
theorem SubMask.eq_of_popcount_le {x m : Mask} (h : SubMask x m) (hcount : popcount m ≤ popcount x) : x = m := by
  have hsplit := h.popcount_eq
  have hrest : m &&& ~~~x = 0 := (popcount_eq_zero_iff _).mp (by omega)
  apply BitVec.eq_of_getLsbD_eq
  intro i hi
  rw [Bool.eq_iff_iff]
  refine ⟨h i, fun hm => ?_⟩
  have hbit := congrArg (fun v => v.getLsbD i) hrest
  simpa [hi, hm] using hbit

theorem hibit_subMask (m : Mask) : SubMask (hibit m) m := by
  obtain ⟨-, h⟩ | ⟨j, -, h, hj, -⟩ := hibit_cases m
  · rw [h]
    intro i hi
    simp at hi
  · rw [h]
    intro i hi
    rw [BitVec.getLsbD_twoPow, Bool.and_eq_true, decide_eq_true_eq, decide_eq_true_eq] at hi
    rwa [← hi.2]

theorem popcount_hibit {m : Mask} (h : m ≠ 0) : popcount (hibit m) = 1 := by
  obtain ⟨hzero, -⟩ | ⟨j, hj, hm, -, -⟩ := hibit_cases m
  · exact absurd hzero h
  · rw [hm, popcount_twoPow hj]

theorem popcount_hibit_of_pos {m : Mask} (h : 0 < popcount m) : popcount (hibit m) = 1 :=
  popcount_hibit ((popcount_pos_iff m).mp h)

theorem hibit_of_one_rank {m : Mask} (h : popcount m = 1) : hibit m = m :=
  (hibit_subMask m).eq_of_popcount_le (by rw [popcount_hibit_of_pos (by omega), h])

/-- A mask of one rank is at most the Ace's. -/
theorem toNat_le_of_one_rank {p : Mask} (h : popcount p = 1) : p.toNat ≤ 2 ^ 13 := by
  obtain ⟨hzero, -⟩ | ⟨j, hj, htop, -, -⟩ := hibit_cases p
  · rw [(popcount_eq_zero_iff p).mpr hzero] at h
    cases h
  · rw [← hibit_of_one_rank h, htop, BitVec.toNat_twoPow_of_lt hj]
    exact Nat.pow_le_pow_right Nat.zero_lt_two (by omega)

theorem topk_subMask (m : Mask) (k : Nat) : SubMask (topk m k) m := by
  induction k generalizing m with
  | zero => intro i hi; simp at hi
  | succ k ih =>
    intro i hi
    rw [topk_succ, BitVec.getLsbD_or, Bool.or_eq_true] at hi
    obtain htop | hrest := hi
    · exact hibit_subMask m i htop
    · exact (ih _).trans (subMask_and_left m _) i hrest

/-- TOPK's two parts, the highest rank and the highest ranks of what is left, share none. -/
theorem popcount_topk_succ (m : Mask) (k : Nat) :
    popcount (topk m (k + 1)) = popcount (hibit m) + popcount (topk (m &&& ~~~hibit m) k) := by
  have htop : SubMask (hibit m) (topk m (k + 1)) := fun i hi => by
    rw [topk_succ, BitVec.getLsbD_or, hi, Bool.true_or]
  have hrest : topk m (k + 1) &&& ~~~hibit m = topk (m &&& ~~~hibit m) k := by
    apply BitVec.eq_of_getLsbD_eq
    intro i hi
    have hsub := topk_subMask (m &&& ~~~hibit m) k i
    rw [BitVec.getLsbD_and, BitVec.getLsbD_not, decide_eq_true hi, Bool.true_and] at hsub
    rw [topk_succ, BitVec.getLsbD_and, BitVec.getLsbD_or, BitVec.getLsbD_not, decide_eq_true hi, Bool.true_and]
    cases hr : (topk (m &&& ~~~hibit m) k).getLsbD i with
    | false => cases (hibit m).getLsbD i <;> rfl
    | true => simpa using ((Bool.and_eq_true _ _).mp (hsub hr)).2
  rw [htop.popcount_eq, hrest]

/-- TOPK of a mask keeps `k` ranks, or all of them if there are fewer (R151). -/
theorem popcount_topk (m : Mask) (k : Nat) : popcount (topk m k) = min k (popcount m) := by
  induction k generalizing m with
  | zero => simp
  | succ k ih =>
    have hsplit := (hibit_subMask m).popcount_eq
    rw [popcount_topk_succ, ih]
    by_cases hm : m = 0
    · have hnone : popcount m = 0 := by simp [hm]
      omega
    · have hone := popcount_hibit hm
      omega

theorem popcount_topk_of_le {m : Mask} {k : Nat} (h : k ≤ popcount m) : popcount (topk m k) = k := by
  rw [popcount_topk, min_eq_left h]

theorem realRanks_hibit {m : Mask} (h : realRanks m = true) : realRanks (hibit m) = true := (hibit_subMask m).real h

theorem realRanks_topk {m : Mask} (k : Nat) (h : realRanks m = true) : realRanks (topk m k) = true :=
  (topk_subMask m k).real h

end Sys2Proof.Laws
end

section
/-! SUPPORT. Counting a hand by rank (30_encoding.md R64, 41_bit_pattern_matcher.md R121 to R128): the four tally masks of a
hand count its ranks once each, and its cards with their multiplicities, which bounds the ranks of a well-formed hand. -/

namespace Sys2Proof.Laws

open Sys2Proof.Machine

theorem getLsbD_rankLanes (hand : Word) (q : Suit) (j : Nat) :
    ((rankLanes hand).get q).getLsbD j = (decide (1 ≤ j) && decide (j < 14) && hand.getLsbD (16 * q.val + j)) := by
  rw [rankLanes, perSuit_get_map, straightLanes, perSuit_get_ofFn, BitVec.getLsbD_and, getLsbD_laneBits, getLsbD_laneRanks]
  cases decide (j < 14) <;> cases decide (1 ≤ j) <;> simp

theorem getLsbD_handRanks {i : Nat} (hi : i < 64) : handRanks.getLsbD i = (decide (1 ≤ i % 16) && decide (i % 16 < 14)) := by
  have hall : ∀ i < 64, handRanks.getLsbD i = (decide (1 ≤ i % 16) && decide (i % 16 < 14)) := by decide
  exact hall i hi

/-- The cards of one suit are the ranks of its lane. -/
theorem sum_lane_eq_popcount (hand : Word) (q : Suit) :
    ∑ j ∈ Finset.range 16, ((hand &&& handRanks).getLsbD (16 * q.val + j)).toNat = popcount ((rankLanes hand).get q) := by
  have hbit (j : Nat) (hj : j < 16) :
      (hand &&& handRanks).getLsbD (16 * q.val + j) = ((rankLanes hand).get q).getLsbD j := by
    rw [BitVec.getLsbD_and, getLsbD_handRanks (by omega), show (16 * q.val + j) % 16 = j by omega, getLsbD_rankLanes,
      Bool.and_comm]
  have hbeyond (j : Nat) (hj : 14 ≤ j) : (((rankLanes hand).get q).getLsbD j).toNat = 0 := by
    rw [BitVec.getLsbD_of_ge _ j hj]
    rfl
  rw [Finset.sum_congr rfl fun j hj => congrArg Bool.toNat (hbit j (Finset.mem_range.mp hj)), Finset.sum_range_succ,
    Finset.sum_range_succ, hbeyond 14 le_rfl, hbeyond 15 (by decide), popcount_eq_sum, Nat.add_zero]

/-- The cards of a hand, lane by lane (R64 (c)). -/
theorem cardCount_eq_sum_lanes (hand : Word) : cardCount hand = ∑ q : Suit, popcount ((rankLanes hand).get q) := by
  have hlanes : Finset.range 64 = Finset.range (16 + 16 + 16 + 16) := rfl
  rw [cardCount, popcount_eq_sum, hlanes, Finset.sum_range_add, Finset.sum_range_add, Finset.sum_range_add, Fin.sum_univ_four]
  simp [← sum_lane_eq_popcount]

/-- The cards of a hand, rank by rank (R128). -/
theorem cardCount_eq_sum_ranks (hand : Word) : cardCount hand = ∑ j ∈ Finset.range 14, rankCount (rankLanes hand) j := by
  rw [cardCount_eq_sum_lanes, Fin.sum_univ_four]
  simp only [popcount_eq_sum, ← Finset.sum_add_distrib]
  rfl

theorem rankCount_le_four (r : PerSuit Mask) (j : Nat) : rankCount r j ≤ 4 := by
  have hbits : ∀ a b c d : Bool, a.toNat + b.toNat + c.toNat + d.toNat ≤ 4 := by decide
  exact hbits _ _ _ _

theorem rankCount_pos_iff (r : PerSuit Mask) (j : Nat) : 1 ≤ rankCount r j ↔ ∃ q : Suit, (r.get q).getLsbD j = true := by
  have hbits : ∀ a b c d : Bool, 1 ≤ a.toNat + b.toNat + c.toNat + d.toNat ↔ a ∨ b ∨ c ∨ d := by decide
  rw [rankCount, hbits]
  simp [Fin.exists_fin_succ, PerSuit.get]

theorem rankCount_eq_four_iff (r : PerSuit Mask) (j : Nat) : rankCount r j = 4 ↔ ∀ q : Suit, (r.get q).getLsbD j = true := by
  have hbits : ∀ a b c d : Bool, a.toNat + b.toNat + c.toNat + d.toNat = 4 ↔ a ∧ b ∧ c ∧ d := by decide
  rw [rankCount, hbits]
  simp [Fin.forall_fin_succ, PerSuit.get]

/-- Bit 0 of a lane is no rank: the ace duplicates are not counted. -/
theorem rankCount_rankLanes_zero (hand : Word) : rankCount (rankLanes hand) 0 = 0 := by
  have hnone : ¬ 1 ≤ rankCount (rankLanes hand) 0 := by
    rw [rankCount_pos_iff]
    rintro ⟨q, hq⟩
    rw [getLsbD_rankLanes] at hq
    cases hq
  omega

theorem getLsbD_ranksHeld_rankLanes (hand : Word) {c j : Nat} (hc : 1 ≤ c) (hj : j < 14) :
    (ranksHeld (rankLanes hand) c).getLsbD j = (rankCount (rankLanes hand) j == c) := by
  rw [getLsbD_ranksHeld, decide_eq_true hj, Bool.and_true]
  cases j with
  | zero =>
    rw [rankCount_rankLanes_zero]
    exact (beq_eq_false_iff_ne.mpr (by omega)).symm
  | succ j => simp

theorem getLsbD_quadRanks_eq (r : PerSuit Mask) (j : Nat) : (quadRanks r).getLsbD j = (rankCount r j == 4) := by
  rw [Bool.eq_iff_iff, getLsbD_quadRanks, beq_iff_eq, rankCount_eq_four_iff]

/-- A rank is present iff some suit holds it (R121). -/
theorem getLsbD_presentRanks (hand : Word) (j : Nat) :
    (presentRanks (straightLanes hand)).getLsbD j = decide (1 ≤ rankCount (rankLanes hand) j) := by
  rw [Bool.eq_iff_iff, decide_eq_true_eq, rankCount_pos_iff, presentRanks, BitVec.getLsbD_and, Bool.and_eq_true,
    getLsbD_orLanes, ← exists_and_right]
  refine exists_congr fun q => ?_
  rw [← Bool.and_eq_true, ← BitVec.getLsbD_and, rankLanes, perSuit_get_map]

theorem popcount_ranksHeld (hand : Word) {c : Nat} (hc : 1 ≤ c) :
    popcount (ranksHeld (rankLanes hand) c) = ∑ j ∈ Finset.range 14, (rankCount (rankLanes hand) j == c).toNat := by
  rw [popcount_eq_sum]
  exact Finset.sum_congr rfl fun j hj => by rw [getLsbD_ranksHeld_rankLanes hand hc (Finset.mem_range.mp hj)]

theorem popcount_quadRanks (r : PerSuit Mask) :
    popcount (quadRanks r) = ∑ j ∈ Finset.range 14, (rankCount r j == 4).toNat := by
  simp only [popcount_eq_sum, getLsbD_quadRanks_eq]

/-- Each rank present is in one of the four tally masks (R128): `N` is the sum of their counts. -/
theorem distinctRanks_eq_tally (hand : Word) :
    (matcherNets hand).n.toNat = popcount (matcherNets hand).singles + popcount (matcherNets hand).pairs +
      popcount (matcherNets hand).trips + popcount (matcherNets hand).quads := by
  simp (disch := omega) only [matcherNets, tallyOf, countNet_toNat, popcount_ranksHeld, popcount_quadRanks,
    ← Finset.sum_add_distrib, popcount_eq_sum (presentRanks _), getLsbD_presentRanks]
  refine Finset.sum_congr rfl fun j _ => ?_
  have := rankCount_le_four (rankLanes hand) j
  interval_cases rankCount (rankLanes hand) j <;> rfl

/-- Each card of a hand is counted by the tally mask of its rank. -/
theorem cardCount_eq_tally (hand : Word) :
    cardCount hand = popcount (matcherNets hand).singles + 2 * popcount (matcherNets hand).pairs +
      3 * popcount (matcherNets hand).trips + 4 * popcount (matcherNets hand).quads := by
  simp (disch := omega) only [matcherNets, tallyOf, popcount_ranksHeld, popcount_quadRanks, Finset.mul_sum,
    ← Finset.sum_add_distrib, cardCount_eq_sum_ranks]
  refine Finset.sum_congr rfl fun j _ => ?_
  have := rankCount_le_four (rankLanes hand) j
  interval_cases rankCount (rankLanes hand) j <;> rfl

theorem cardCount_of_wellFormed {hand : Word} (h : wellFormedHand hand = true) :
    5 ≤ cardCount hand ∧ cardCount hand ≤ 7 := by
  simp only [wellFormedHand, Bool.and_eq_true, Bool.or_eq_true, beq_iff_eq] at h
  omega

/-- Five to seven cards, four of a rank at most, make two to seven ranks. -/
theorem distinctRanks_of_wellFormed {hand : Word} (h : wellFormedHand hand = true) :
    2 ≤ (matcherNets hand).n.toNat ∧ (matcherNets hand).n.toNat ≤ 7 := by
  have := cardCount_of_wellFormed h
  have := cardCount_eq_tally hand
  have := distinctRanks_eq_tally hand
  omega

theorem sentinelCondition_iff (n : Nibble) : sentinelCondition n = true ↔ ¬(2 ≤ n.toNat ∧ n.toNat ≤ 7) := by
  simp only [sentinelCondition, Bool.or_eq_true, decide_eq_true_eq]
  omega

theorem sentinelCondition_of_wellFormed {hand : Word} (h : wellFormedHand hand = true) :
    sentinelCondition (matcherNets hand).n = false := by
  rw [← Bool.not_eq_true, sentinelCondition_iff, not_not]
  exact distinctRanks_of_wellFormed h

theorem classify_of_wellFormed {hand : Word} (h : wellFormedHand hand = true) :
    classify hand = (select (matcherNets hand)).value :=
  classify_of_not_sentinel hand (sentinelCondition_of_wellFormed h)

/-! The input classes (30_encoding.md R71) -/

theorem inputClass_of_wellFormed {hand : Word} (h : wellFormedHand hand = true) : inputClass hand = .inContract := by
  simp [inputClass, sentinelCondition_of_wellFormed h, h]

/-- In contract the value nets are those of the selected rule (log 6 is for the other classes). -/
theorem valueNets_of_wellFormed {hand : Word} (h : wellFormedHand hand = true) :
    valueNets hand = valueNetsOf (select (matcherNets hand)).cat.code (select (matcherNets hand)).p
      (select (matcherNets hand)).k := by
  rw [valueNets, inputClass_of_wellFormed h]

/-- A word on the sentinel path is not well-formed: it has the wrong number of ranks. -/
theorem not_wellFormed_of_sentinelCondition {hand : Word} (h : sentinelCondition (matcherNets hand).n = true) :
    wellFormedHand hand = false := by
  rw [← Bool.not_eq_true]
  intro hw
  rw [sentinelCondition_of_wellFormed hw] at h
  cases h

/-- Settles O32: the class of a word decides both conditions, since a well-formed hand has 2 to 7 ranks. -/
theorem inputClassesPartitionTheWords : Obligations.InputClassesPartitionTheWords := by
  intro hand
  rw [← sentinelCondition_iff]
  have hrange := sentinelCondition_iff (matcherNets hand).n
  obtain ⟨hs, hclass, hvalue⟩ | ⟨hs, hw, hclass, hvalue⟩ | ⟨hs, hw, hclass, hvalue⟩ := evaluateWord_cases hand
  · have hw := not_wellFormed_of_sentinelCondition hs
    simpa [hs, hclass, hvalue, hw, sentinel] using hrange.mp hs
  · simp [hs, hclass, hvalue, hw, classify_of_wellFormed hw]
  · have hin : 2 ≤ (matcherNets hand).n.toNat ∧ (matcherNets hand).n.toNat ≤ 7 := by
      simpa [hs] using hrange
    simp [hs, hclass, hvalue, hw, hin]

end Sys2Proof.Laws
end

section
/-! SUPPORT. The sub-blocks' functions performed one after another (30_encoding.md R70, 44_poker_hand_classifier.md R190):
the matcher's pass leaves the matcher's nets of the hand and touches nothing else. -/

namespace Sys2Proof.Laws

open Sys2Proof.Machine

theorem performAll_cons {s t : State} {f : State → Instr} (rest : List (State → Instr))
    (h : exec (f s) s = .next t) : performAll s (f :: rest) = performAll t rest := by
  rw [performAll, h]

/-- The functions that have a free value on other lanes are exact on the lanes of a hand (log 20), so the pass drives the
nets of R27. -/
theorem performAll_matcherPass (s : State) (hand : Word) (rest : List (State → Instr)) :
    performAll s (matcherPass hand ++ rest) = performAll (s.setMatcher (matcherNets hand)) rest := by
  have hquads := quadsNet_of_real _ (rankLanes_real hand)
  have hdistinct := distinctNet_of_real _ (presentRanks_real (straightLanes hand))
  have hcounts := suitcountNets_of_real _ (rankLanes_real hand)
  unfold matcherPass
  iterate 8 refine (performAll_cons _ rfl).trans ?_
  dsimp only [State.setMatcher]
  rw [hquads, hdistinct, hcounts]
  rfl

/-- The payload, tag and compose functions leave the rank_encoder's and tagger's result nets of R152, R170 and R171. -/
theorem performAll_valueFunctions (s : State) (cat : Category) (p k : Mask) :
    performAll s [fun _ => .rePayload p k, fun _ => .ctTag cat.code, fun _ => .ctCompose cat.code p k] =
      s.setValues { s.values with payload := payloadOf p k, tag := tagOf cat.code, value := valueOf cat.code p k } := by
  have htag := tagNet_of_le cat.code (code_le_eight cat)
  have hvalue := composeNet_of_le cat.code p k (code_le_eight cat)
  calc performAll s [fun _ => .rePayload p k, fun _ => .ctTag cat.code, fun _ => .ctCompose cat.code p k]
      = s.setValues { s.values with
          payload := payloadOf p k, tag := tagNet cat.code, value := composeNet cat.code p k } := rfl
    _ = _ := by rw [htag, hvalue]

/-- Settles O35: the pass drives the hand's nets, and in contract the selection made from them is the one EVALUATE makes. -/
theorem subBlocksComposeToEvaluate : Obligations.SubBlocksComposeToEvaluate := by
  intro s hand hst hset
  have hpass := performAll_matcherPass s hand []
  rw [List.append_nil] at hpass
  refine ⟨showValue hand s, exec_evaluate_of_settled hand hst hset, by rw [hpass]; rfl, fun hw => ?_⟩
  have hnets : (showValue hand s).values = valueNets hand := rfl
  have hvalue : (showValue hand s).valueO = (select (matcherNets hand)).value :=
    (evaluateWord_of_wellFormed hw).trans (classify_of_wellFormed hw)
  dsimp only
  rw [performAll_matcherPass, hpass, performAll_valueFunctions, hvalue, hnets, valueNets_of_wellFormed hw]
  exact ⟨rfl, rfl, rfl, rfl, rfl, rfl⟩

end Sys2Proof.Laws
end

section
/-! SUPPORT. The priority chain (44_poker_hand_classifier.md R190 to R202): what each of its parts can answer, and for a
well-formed hand how many ranks the selected masks hold (42_rank_encoder.md R153). -/

namespace Sys2Proof.Laws

open Sys2Proof.Machine

/-! What the chain can answer -/

theorem flushSuit_cases (lc : PerSuit Nibble) :
    (∃ q, flushSuit lc = some q ∧ 5 ≤ (lc.get q).toNat) ∨ (flushSuit lc = none ∧ ∀ q : Suit, (lc.get q).toNat < 5) := by
  cases h : flushSuit lc with
  | some q => exact .inl ⟨q, rfl, by simpa using List.find?_some h⟩
  | none => exact .inr ⟨rfl, fun q => by simpa using List.find?_eq_none.mp h q (List.mem_finRange q)⟩

/-- The rules behind the five-rank gate (R193 to R195). -/
theorem selectFiveRanks_cases (m : MatcherNets) :
    (m.sfm ≠ 0 ∧ selectFiveRanks m = some ⟨.straightFlush, hibit m.sfm, 0⟩) ∨
    (m.sfm = 0 ∧ ∃ q, 5 ≤ (m.lc.get q).toNat ∧ selectFiveRanks m = some ⟨.flush, topk (m.r.get q) 5, 0⟩) ∨
    (m.sfm = 0 ∧ (∀ q : Suit, (m.lc.get q).toNat < 5) ∧ m.stm ≠ 0 ∧
      selectFiveRanks m = some ⟨.straight, hibit m.stm, 0⟩) ∨
    (m.sfm = 0 ∧ (∀ q : Suit, (m.lc.get q).toNat < 5) ∧ m.stm = 0 ∧ selectFiveRanks m = none) := by
  unfold selectFiveRanks
  by_cases hsf : m.sfm = 0
  · rw [if_neg (not_not.mpr hsf)]
    obtain ⟨q, hq, hfive⟩ | ⟨hq, hfew⟩ := flushSuit_cases m.lc
    · exact .inr (.inl ⟨hsf, q, hfive, by rw [hq]⟩)
    · rw [hq]
      by_cases hst : m.stm = 0
      · exact .inr (.inr (.inr ⟨hsf, hfew, hst, if_neg (not_not.mpr hst)⟩))
      · exact .inr (.inr (.inl ⟨hsf, hfew, hst, if_pos hst⟩))
  · exact .inl ⟨hsf, if_pos hsf⟩

theorem selectFiveRanks_cat {m : MatcherNets} {sel : Selection} (h : selectFiveRanks m = some sel) :
    sel.cat = .straightFlush ∨ sel.cat = .flush ∨ sel.cat = .straight := by
  obtain ⟨-, hrule⟩ | ⟨-, q, -, hrule⟩ | ⟨-, -, -, hrule⟩ | ⟨-, -, -, hrule⟩ := selectFiveRanks_cases m
  · cases hrule.symm.trans h; exact .inl rfl
  · cases hrule.symm.trans h; exact .inr (.inl rfl)
  · cases hrule.symm.trans h; exact .inr (.inr rfl)
  · cases hrule.symm.trans h

theorem stm_eq_zero_of_selectFiveRanks_none {m : MatcherNets} (h : selectFiveRanks m = none) : m.stm = 0 := by
  obtain ⟨-, hrule⟩ | ⟨-, q, -, hrule⟩ | ⟨-, -, -, hrule⟩ | ⟨-, -, hstm, -⟩ := selectFiveRanks_cases m
  · cases hrule.symm.trans h
  · cases hrule.symm.trans h
  · cases hrule.symm.trans h
  · exact hstm

/-- The rules that go by occurrence counts (R196 to R202). -/
theorem selectByCounts_cases (m : MatcherNets) :
    (m.quads ≠ 0 ∧ selectByCounts m = ⟨.fourOfAKind, hibit m.quads, hibit (m.present &&& ~~~hibit m.quads)⟩) ∨
    (m.quads = 0 ∧ 2 ≤ popcount m.trips ∧
      selectByCounts m = ⟨.fullHouse, hibit m.trips, hibit (m.trips &&& ~~~hibit m.trips)⟩) ∨
    (m.quads = 0 ∧ popcount m.trips = 1 ∧ m.pairs ≠ 0 ∧ selectByCounts m = ⟨.fullHouse, m.trips, hibit m.pairs⟩) ∨
    (m.quads = 0 ∧ popcount m.trips = 1 ∧ m.pairs = 0 ∧ selectByCounts m = ⟨.threeOfAKind, m.trips, topk m.singles 2⟩) ∨
    (m.quads = 0 ∧ popcount m.trips = 0 ∧ 2 ≤ popcount m.pairs ∧
      selectByCounts m = ⟨.twoPair, topk m.pairs 2, hibit (m.present &&& ~~~topk m.pairs 2)⟩) ∨
    (m.quads = 0 ∧ popcount m.trips = 0 ∧ popcount m.pairs = 1 ∧
      selectByCounts m = ⟨.onePair, m.pairs, topk m.singles 3⟩) ∨
    (m.quads = 0 ∧ popcount m.trips = 0 ∧ popcount m.pairs = 0 ∧
      selectByCounts m = ⟨.highCard, topk m.singles 5, 0⟩) := by
  unfold selectByCounts
  split_ifs with hq ht2 htp ht1 hp2 hp1
  · exact .inl ⟨hq, rfl⟩
  · exact .inr (.inl ⟨not_not.mp hq, ht2, rfl⟩)
  · exact .inr (.inr (.inl ⟨not_not.mp hq, htp.1, htp.2, rfl⟩))
  · exact .inr (.inr (.inr (.inl ⟨not_not.mp hq, ht1, not_not.mp fun hp => htp ⟨ht1, hp⟩, rfl⟩)))
  · exact .inr (.inr (.inr (.inr (.inl ⟨not_not.mp hq, by omega, hp2, rfl⟩))))
  · exact .inr (.inr (.inr (.inr (.inr (.inl ⟨not_not.mp hq, by omega, hp1, rfl⟩)))))
  · exact .inr (.inr (.inr (.inr (.inr (.inr ⟨not_not.mp hq, by omega, by omega, rfl⟩)))))

/-- The chain with its gate (R192): a rule for five ranks, or, where none applies, a rule by counts. -/
theorem select_cases (m : MatcherNets) :
    (5 ≤ m.n.toNat ∧ selectFiveRanks m = some (select m)) ∨
    ((5 ≤ m.n.toNat → selectFiveRanks m = none) ∧ select m = selectByCounts m) := by
  by_cases h5 : 5 ≤ m.n.toNat
  · cases h : selectFiveRanks m with
    | some sel => exact .inl ⟨h5, by simp [select, h5, h]⟩
    | none => exact .inr ⟨fun _ => rfl, by simp [select, h5, h]⟩
  · exact .inr ⟨fun h => absurd h h5, by simp [select, h5]⟩

/-! The selected masks -/

/-- How many ranks `P` and `K` hold in each category (R153). -/
def fieldSizes : Category → Nat × Nat
  | .highCard => (5, 0)
  | .onePair => (1, 3)
  | .twoPair => (2, 1)
  | .threeOfAKind => (1, 2)
  | .straight => (1, 0)
  | .flush => (5, 0)
  | .fullHouse => (1, 1)
  | .fourOfAKind => (1, 1)
  | .straightFlush => (1, 0)

/-- The masks of a selection hold real ranks, as many as its category asks for. -/
structure FieldsFit (sel : Selection) : Prop where
  primaryReal : realRanks sel.p = true
  kickersReal : realRanks sel.k = true
  primarySize : popcount sel.p = (fieldSizes sel.cat).1
  kickersSize : popcount sel.k = (fieldSizes sel.cat).2

theorem realRanks_zero : realRanks 0 = true := rfl

/-- A straight's high card is no ace duplicate. -/
theorem realRanks_of_straightForm {m : Mask} (h : straightForm m = true) : realRanks m = true := by
  have hbit := congrArg (fun v => v.getLsbD 0) (beq_iff_eq.mp h)
  simpa [realRanks_iff] using hbit

theorem fieldsFit_selectFiveRanks {hand : Word} {sel : Selection} (h : selectFiveRanks (matcherNets hand) = some sel) :
    FieldsFit sel := by
  obtain ⟨hr, -, -, -, -, -, -, hsfm, hstm⟩ := matcherForm_matcherNets hand
  obtain ⟨hsf, hsel⟩ | ⟨-, q, hq, hsel⟩ | ⟨-, -, hst, hsel⟩ | ⟨-, -, -, hsel⟩ := selectFiveRanks_cases (matcherNets hand)
  · cases hsel.symm.trans h
    exact ⟨realRanks_hibit (realRanks_of_straightForm hsfm), realRanks_zero, popcount_hibit hsf, popcount_zero⟩
  · cases hsel.symm.trans h
    have hlane : 5 ≤ popcount ((matcherNets hand).r.get q) := by
      simpa [matcherNets, countNet_toNat] using hq
    exact ⟨realRanks_topk 5 ((perSuit_all_iff realRanks _).mp hr q), realRanks_zero,
      popcount_topk_of_le hlane, popcount_zero⟩
  · cases hsel.symm.trans h
    exact ⟨realRanks_hibit (realRanks_of_straightForm hstm), realRanks_zero, popcount_hibit hst, popcount_zero⟩
  · cases hsel.symm.trans h

/-- Each rule by counts finds the kickers it takes, because a well-formed hand has five cards or more. -/
theorem fieldsFit_selectByCounts {hand : Word} (h : wellFormedHand hand = true) :
    FieldsFit (selectByCounts (matcherNets hand)) := by
  obtain ⟨-, hpresent, hsingles, hpairs, htrips, -⟩ := matcherForm_matcherNets hand
  have hquads : realRanks (matcherNets hand).quads = true := realRanks_quadRanks (rankLanes_real hand)
  have hn : (matcherNets hand).n.toNat = popcount (matcherNets hand).present := countNet_toNat _
  obtain ⟨hcards, -⟩ := cardCount_of_wellFormed h
  have hrankTally := distinctRanks_eq_tally hand
  have hcardTally := cardCount_eq_tally hand
  generalize matcherNets hand = m at *
  have hothers (x : Mask) := popcount_le_diff_add m.present x
  have hothersReal (x : Mask) : realRanks (m.present &&& ~~~x) = true := (subMask_and_left _ _).real hpresent
  obtain ⟨hq, hsel⟩ | ⟨hq, ht, hsel⟩ | ⟨hq, ht, hp, hsel⟩ | ⟨hq, ht, hp, hsel⟩ | ⟨hq, ht, hp, hsel⟩ | ⟨hq, ht, hp, hsel⟩ |
    ⟨hq, ht, hp, hsel⟩ := selectByCounts_cases m
  · rw [hsel]
    have hone := popcount_hibit hq
    have hk : 0 < popcount (m.present &&& ~~~hibit m.quads) := by have := hothers (hibit m.quads); omega
    exact ⟨realRanks_hibit hquads, realRanks_hibit (hothersReal _), hone, popcount_hibit_of_pos hk⟩
  · rw [hsel]
    have hone : popcount (hibit m.trips) = 1 := popcount_hibit_of_pos (by omega)
    have hk : 0 < popcount (m.trips &&& ~~~hibit m.trips) := by have := popcount_le_diff_add m.trips (hibit m.trips); omega
    exact ⟨realRanks_hibit htrips, realRanks_hibit ((subMask_and_left _ _).real htrips),
      hone, popcount_hibit_of_pos hk⟩
  · rw [hsel]
    exact ⟨htrips, realRanks_hibit hpairs, ht, popcount_hibit hp⟩
  · rw [hsel]
    have hnoQuads := (popcount_eq_zero_iff _).mpr hq
    have hnoPairs := (popcount_eq_zero_iff _).mpr hp
    have hk : 2 ≤ popcount m.singles := by omega
    exact ⟨htrips, realRanks_topk 2 hsingles, ht, popcount_topk_of_le hk⟩
  · rw [hsel]
    have htwo : popcount (topk m.pairs 2) = 2 := popcount_topk_of_le hp
    have hnoQuads := (popcount_eq_zero_iff _).mpr hq
    have hk : 0 < popcount (m.present &&& ~~~topk m.pairs 2) := by have := hothers (topk m.pairs 2); omega
    exact ⟨realRanks_topk 2 hpairs, realRanks_hibit (hothersReal _), htwo, popcount_hibit_of_pos hk⟩
  · rw [hsel]
    have hnoQuads := (popcount_eq_zero_iff _).mpr hq
    have hk : 3 ≤ popcount m.singles := by omega
    exact ⟨hpairs, realRanks_topk 3 hsingles, hp, popcount_topk_of_le hk⟩
  · rw [hsel]
    have hnoQuads := (popcount_eq_zero_iff _).mpr hq
    have hk : 5 ≤ popcount m.singles := by omega
    exact ⟨realRanks_topk 5 hsingles, realRanks_zero, popcount_topk_of_le hk, popcount_zero⟩

theorem fieldsFit_select {hand : Word} (h : wellFormedHand hand = true) : FieldsFit (select (matcherNets hand)) := by
  obtain ⟨-, hsel⟩ | ⟨-, hsel⟩ := select_cases (matcherNets hand)
  · exact fieldsFit_selectFiveRanks hsel
  · rw [hsel]
    exact fieldsFit_selectByCounts h

/-! The weakest high card (R202) -/

/-- The smallest mask of five real ranks that is no straight is 7-5-4-3-2. -/
theorem sevenHigh_le_of_five_ranks {p : Mask} (hreal : realRanks p = true) (hfive : popcount p = 5)
    (hstraight : p ≠ 0x003E) : 0x005E ≤ p := by
  have hsmall : ∀ n < 0x005E, realRanks (BitVec.ofNat 14 n) = true → popcount (BitVec.ofNat 14 n) = 5 → n = 0x003E := by
    decide
  by_contra hlt
  rw [BitVec.le_def, not_le] at hlt
  have hn := hsmall p.toNat hlt (by simpa using hreal) (by simpa using hfive)
  exact hstraight (BitVec.eq_of_toNat_eq hn)

/-- A rank held once is a rank held. -/
theorem singles_subMask_or14 (hand : Word) : SubMask (matcherNets hand).singles (matcherNets hand).or14 := by
  intro j hj
  have hj14 : j < 14 := by
    by_contra hge
    rw [BitVec.getLsbD_of_ge _ j (by omega)] at hj
    cases hj
  have honce : rankCount (rankLanes hand) j = 1 := by
    simpa using (getLsbD_ranksHeld_rankLanes hand (Nat.le_refl 1) hj14).symm.trans hj
  have hpresent : SubMask (matcherNets hand).present (matcherNets hand).or14 := subMask_and_left _ _
  apply hpresent j
  exact (getLsbD_presentRanks hand j).trans (decide_eq_true honce.ge)

/-- HIGH_CARD is selected when no rank is held twice and the gated rules, had there been five ranks, found nothing. -/
theorem select_of_highCard {m : MatcherNets} (h : (select m).cat = .highCard) :
    m.quads = 0 ∧ popcount m.trips = 0 ∧ popcount m.pairs = 0 ∧ (5 ≤ m.n.toNat → m.stm = 0) ∧
      select m = ⟨.highCard, topk m.singles 5, 0⟩ := by
  obtain ⟨-, hsel⟩ | ⟨hnone, hsel⟩ := select_cases m
  · obtain hcat | hcat | hcat := selectFiveRanks_cat hsel
    all_goals rw [h] at hcat; cases hcat
  · have hstm (h5 : 5 ≤ m.n.toNat) : m.stm = 0 := stm_eq_zero_of_selectFiveRanks_none (hnone h5)
    rw [hsel] at h ⊢
    obtain ⟨-, hrule⟩ | ⟨-, -, hrule⟩ | ⟨-, -, -, hrule⟩ | ⟨-, -, -, hrule⟩ | ⟨-, -, -, hrule⟩ | ⟨-, -, -, hrule⟩ |
      ⟨hq, ht, hp, hrule⟩ := selectByCounts_cases m
    case inr.inr.inr.inr.inr.inr => exact ⟨hq, ht, hp, hstm, hrule⟩
    all_goals rw [hrule] at h; cases h

/-- A HIGH_CARD hand is no 6-5-4-3-2: the straight of those ranks would come first (R195). -/
theorem sevenHigh_le_of_highCard {hand : Word} (h : wellFormedHand hand = true)
    (hcat : (select (matcherNets hand)).cat = .highCard) : 0x005E ≤ (select (matcherNets hand)).p := by
  obtain ⟨hreal, -, hsize, -⟩ := fieldsFit_select h
  obtain ⟨hq, ht, hp, hstm, hsel⟩ := select_of_highCard hcat
  have hcards := cardCount_of_wellFormed h
  have hcardTally := cardCount_eq_tally hand
  have hrankTally := distinctRanks_eq_tally hand
  have hnoQuads := (popcount_eq_zero_iff _).mpr hq
  rw [hcat] at hsize
  refine sevenHigh_le_of_five_ranks hreal hsize fun hstraight => ?_
  have hranks : SubMask 0x003E (matcherNets hand).or14 := by
    rw [← hstraight, hsel]
    exact (topk_subMask _ 5).trans (singles_subMask_or14 hand)
  have hfound : (matcherNets hand).stm.getLsbD 5 = true := by
    change (straightMask (matcherNets hand).or14).getLsbD 5 = true
    rw [getLsbD_straightMask, hranks 5 rfl, hranks (5 - 1) rfl, hranks (5 - 2) rfl, hranks (5 - 3) rfl,
      hranks (5 - 4) rfl]
    rfl
  rw [hstm (by omega)] at hfound
  cases hfound

end Sys2Proof.Laws
end

section
/-! SUPPORT. The value as a number (30_encoding.md R65, R68): the tag is a power of two above the payload, which is `P` above
`K`; a consumer reads the three fields back. -/

namespace Sys2Proof.Laws

open Sys2Proof.Machine

theorem toNat_payloadOf (p k : Mask) : (payloadOf p k).toNat = 2 ^ 16 * p.toNat + k.toNat := by
  have hp : p.toNat < 2 ^ 14 := p.isLt
  have hk : k.toNat < 2 ^ 16 := k.isLt.trans (by decide)
  rw [payloadOf, BitVec.toNat_or, BitVec.toNat_shiftLeft, BitVec.toNat_setWidth, BitVec.toNat_setWidth,
    Nat.mod_eq_of_lt (show p.toNat < 2 ^ 32 by omega), Nat.mod_eq_of_lt (show k.toNat < 2 ^ 32 by omega),
    Nat.shiftLeft_eq, Nat.mod_eq_of_lt (show p.toNat * 2 ^ 16 < 2 ^ 32 by omega), Nat.mul_comm,
    Nat.two_pow_add_eq_or_of_lt hk]

theorem toNat_tagOf (cat : Nibble) : (tagOf cat).toNat = 2 ^ (32 + cat.toNat) := by
  have hcat : cat.toNat < 16 := cat.isLt
  simp only [tagOf, BitVec.ofNat_eq_ofNat, ← BitVec.twoPow_eq]
  rw [BitVec.toNat_twoPow_of_lt (by omega)]

theorem toNat_valueOf (cat : Nibble) (p k : Mask) :
    (valueOf cat p k).toNat = 2 ^ (32 + cat.toNat) + 2 ^ 16 * p.toNat + k.toNat := by
  have hpayload := (payloadOf p k).isLt
  rw [valueOf, BitVec.toNat_or, toNat_tagOf, BitVec.toNat_setWidth, Nat.mod_eq_of_lt (by omega), pow_add,
    ← Nat.two_pow_add_eq_or_of_lt hpayload, toNat_payloadOf]
  ring

/-- A value lies in its category's band: from its tag up to less than twice its tag. -/
theorem valueOf_band (cat : Nibble) (p k : Mask) :
    2 ^ (32 + cat.toNat) ≤ (valueOf cat p k).toNat ∧ (valueOf cat p k).toNat < 2 ^ (32 + cat.toNat + 1) := by
  have hp := p.isLt
  have hk := k.isLt
  have hpow : 2 ^ 32 ≤ 2 ^ (32 + cat.toNat) := Nat.pow_le_pow_right Nat.zero_lt_two (by omega)
  rw [toNat_valueOf, pow_succ]
  omega

/-- Above the payload stands the tag's power of two alone. -/
theorem valueOf_shiftRight (cat : Nibble) (p k : Mask) : (valueOf cat p k).toNat >>> 32 = 2 ^ cat.toNat := by
  have hp := p.isLt
  have hk := k.isLt
  rw [toNat_valueOf, Nat.shiftRight_eq_div_pow, pow_add]
  omega

theorem categoryCodeOf_valueOf (cat : Nibble) (p k : Mask) : categoryCodeOf (valueOf cat p k) = cat.toNat := by
  rw [categoryCodeOf, BitVec.toNat_ushiftRight, valueOf_shiftRight, Nat.log2_two_pow]

theorem tagField_valueOf (cat : Nibble) (p k : Mask) :
    (valueOf cat p k).extractLsb' 32 9 = BitVec.twoPow 9 cat.toNat := by
  apply BitVec.eq_of_toNat_eq
  rw [BitVec.extractLsb'_toNat, valueOf_shiftRight, BitVec.toNat_twoPow]

/-- Bits 63..32 hold the tag. -/
theorem getLsbD_valueOf_high (cat : Nibble) (p k : Mask) {i : Nat} (hi : 32 ≤ i) :
    (valueOf cat p k).getLsbD i = decide (i = 32 + cat.toNat) := by
  rw [valueOf, BitVec.getLsbD_or, getLsbD_tagOf, BitVec.getLsbD_setWidth, BitVec.getLsbD_of_ge (payloadOf p k) i hi,
    Bool.and_false, Bool.or_false]

/-- Bits 31..0 hold the payload. -/
theorem getLsbD_valueOf_low (cat : Nibble) (p k : Mask) {i : Nat} (hi : i < 32) :
    (valueOf cat p k).getLsbD i = (decide (16 ≤ i) && p.getLsbD (i - 16) || k.getLsbD i) := by
  rw [← getLsbD_payloadOf p k hi, ← valueOf_low cat p k, BitVec.getLsbD_setWidth, decide_eq_true hi, Bool.true_and]

/-- The zero bits of R68: above the nine tags, between and around the masks, and at the masks' ace duplicates. -/
theorem valueOf_zero_bits {cat : Nibble} {p k : Mask} (hcat : cat.toNat ≤ 8) (hp : realRanks p = true)
    (hk : realRanks k = true) : valueOf cat p k &&& 0xFFFF_FE00_C001_C001 = 0 := by
  have hmask : ∀ i < 64, (0xFFFF_FE00_C001_C001 : Word).getLsbD i =
      decide (41 ≤ i ∨ i < 32 ∧ (i % 16 = 0 ∨ 14 ≤ i % 16)) := by decide
  have hclear (m : Mask) (hm : realRanks m = true) (i : Nat) (hi : i = 0 ∨ 14 ≤ i) : m.getLsbD i = false := by
    obtain rfl | hi := hi
    · exact (realRanks_iff m).mp hm
    · exact BitVec.getLsbD_of_ge m i hi
  apply beq_iff_eq.mp
  apply and_beq_zero_of_bits
  intro i hi hset
  rw [hmask i hi, decide_eq_true_eq] at hset
  obtain htag | ⟨hlow, hplace⟩ := hset
  · rw [getLsbD_valueOf_high cat p k (by omega), decide_eq_false (by omega)]
  · rw [getLsbD_valueOf_low cat p k hlow, hclear k hk i (by omega), Bool.or_false]
    by_cases h16 : 16 ≤ i
    · rw [hclear p hp (i - 16) (by omega), Bool.and_false]
    · rw [decide_eq_false h16, Bool.false_and]

theorem primaryOf_valueOf (cat : Nibble) (p k : Mask) : primaryOf (valueOf cat p k) = p := by
  have hk := k.isLt
  have hp := p.isLt
  apply BitVec.eq_of_toNat_eq
  rw [primaryOf, BitVec.extractLsb'_toNat, toNat_valueOf, Nat.shiftRight_eq_div_pow, pow_add]
  omega

theorem kickersOf_valueOf (cat : Nibble) (p k : Mask) : kickersOf (valueOf cat p k) = k := by
  have hk := k.isLt
  apply BitVec.eq_of_toNat_eq
  rw [kickersOf, BitVec.extractLsb'_toNat, toNat_valueOf, Nat.shiftRight_zero, pow_add]
  omega

/-! The values of well-formed hands (30_encoding.md R68) -/

theorem fieldSizes_primary_pos (c : Category) : 0 < (fieldSizes c).1 := by
  cases c <;> decide

theorem fieldSizes_kickers_eq_zero_iff (c : Category) :
    (fieldSizes c).2 = 0 ↔ c.code.toNat = 0 ∨ c.code.toNat = 4 ∨ c.code.toNat = 5 ∨ c.code.toNat = 8 := by
  cases c <;> decide

/-- The value of a well-formed hand is composed of the selection, whose masks fit its category. -/
theorem classify_eq_valueOf {hand : Word} (h : wellFormedHand hand = true) :
    classify hand = valueOf (select (matcherNets hand)).cat.code (select (matcherNets hand)).p
      (select (matcherNets hand)).k :=
  classify_of_wellFormed h

/-- Settles O24: the category, at most 8, places the tag and so the range, and it says how many ranks each mask holds. -/
theorem valueFormatOfWellFormedHands : Obligations.ValueFormatOfWellFormedHands := by
  intro hand h
  obtain ⟨hp, hk, hpSize, hkSize⟩ := fieldsFit_select h
  rw [classify_eq_valueOf h]
  generalize select (matcherNets hand) = sel at *
  have hcat := code_le_eight sel.cat
  obtain ⟨hlo, hhi⟩ := valueOf_band sel.cat.code sel.p sel.k
  have hfrom : 2 ^ 32 ≤ 2 ^ (32 + sel.cat.code.toNat) := Nat.pow_le_pow_right Nat.zero_lt_two (by omega)
  have hto : 2 ^ (32 + sel.cat.code.toNat + 1) ≤ 2 ^ 41 := Nat.pow_le_pow_right Nat.zero_lt_two (by omega)
  have hprimary : sel.p ≠ 0 := by
    rw [← popcount_pos_iff, hpSize]
    exact fieldSizes_primary_pos sel.cat
  have hkickers := fieldSizes_kickers_eq_zero_iff sel.cat
  rw [← hkSize, popcount_eq_zero_iff] at hkickers
  have htag : (valueOf sel.cat.code sel.p sel.k).getLsbD (32 + sel.cat.code.toNat) = true := by
    rw [getLsbD_valueOf_high _ _ _ (Nat.le_add_right 32 _), decide_eq_true rfl]
  simp only [primaryOf_valueOf, kickersOf_valueOf, categoryCodeOf_valueOf, tagField_valueOf, BitVec.le_def, BitVec.lt_def]
  refine ⟨?_, ?_, ?_, popcount_twoPow (by omega), valueOf_zero_bits hcat hp hk, hprimary, hkickers, hcat, htag⟩
  · exact hfrom.trans hlo
  · exact hhi.trans_le hto
  · exact hhi.trans_le (hto.trans (by decide))

theorem one_le_code {c : Category} (h : c ≠ .highCard) : 1 ≤ c.code.toNat := by
  cases c with
  | highCard => exact absurd rfl h
  | _ => decide

theorem code_le_seven {c : Category} (h : c ≠ .straightFlush) : c.code.toNat ≤ 7 := by
  cases c with
  | straightFlush => exact absurd rfl h
  | _ => decide

/-- A category above HIGH_CARD has the larger tag, and within HIGH_CARD the weakest five ranks are 7-5-4-3-2. -/
theorem lowest_le_classify {hand : Word} (h : wellFormedHand hand = true) :
    0x0000_0001_005E_0000 ≤ classify hand := by
  have hseven := sevenHigh_le_of_highCard h
  have hbound : (0x0000_0001_005E_0000 : Word).toNat = 2 ^ 32 + 2 ^ 16 * 0x005E := rfl
  rw [classify_eq_valueOf h, BitVec.le_def, toNat_valueOf, hbound]
  generalize select (matcherNets hand) = sel at *
  by_cases hcat : sel.cat = .highCard
  · have hp : 0x005E ≤ sel.p.toNat := hseven hcat
    have htag : 2 ^ (32 + sel.cat.code.toNat) = 2 ^ 32 := by rw [hcat]; rfl
    omega
  · have htag : 2 ^ 33 ≤ 2 ^ (32 + sel.cat.code.toNat) :=
      Nat.pow_le_pow_right Nat.zero_lt_two (by have := one_le_code hcat; omega)
    omega

/-- A category below STRAIGHT_FLUSH ends below its tag, and a straight flush is named by one rank, at most the Ace. -/
theorem classify_le_highest {hand : Word} (h : wellFormedHand hand = true) :
    classify hand ≤ 0x0000_0100_2000_0000 := by
  obtain ⟨-, -, hpSize, hkSize⟩ := fieldsFit_select h
  have hbound : (0x0000_0100_2000_0000 : Word).toNat = 2 ^ 40 + 2 ^ 16 * 2 ^ 13 := rfl
  rw [classify_eq_valueOf h, BitVec.le_def, hbound]
  generalize select (matcherNets hand) = sel at *
  by_cases hcat : sel.cat = .straightFlush
  · rw [hcat] at hpSize hkSize
    have hp : sel.p.toNat ≤ 2 ^ 13 := toNat_le_of_one_rank hpSize
    have hk : sel.k.toNat = 0 := congrArg BitVec.toNat ((popcount_eq_zero_iff _).mp hkSize)
    have htag : 2 ^ (32 + sel.cat.code.toNat) = 2 ^ 40 := by rw [hcat]; rfl
    rw [toNat_valueOf, htag, hk, Nat.add_zero]
    omega
  · have hband := (valueOf_band sel.cat.code sel.p sel.k).2
    have htag : 2 ^ (32 + sel.cat.code.toNat + 1) ≤ 2 ^ 40 :=
      Nat.pow_le_pow_right Nat.zero_lt_two (by have := code_le_seven hcat; omega)
    omega

/-- Settles O25: the bounds by category; 7-5-4-3-2 and an Ace-high straight flush reach them (95_test_vectors.md). -/
theorem lowestAndHighestWellFormedValues : Obligations.LowestAndHighestWellFormedValues := by
  refine ⟨fun _ h => ⟨lowest_le_classify h, classify_le_highest h⟩, ⟨0x0010_0008_0004_0042, ?_⟩,
    ⟨0x3E01_0000_0004_0002, ?_⟩⟩
  · decide
  · decide

end Sys2Proof.Laws
end

section
/-! SUPPORT. The Encoding Adapter's two directions (30_encoding.md R60 to R64, 40_encoding_adapter.md R100 to R102): PACK
lane by lane, the conditions (a) and (b) as facts about bits, UNPACK as PACK's inverse, and the number of cards, which PACK
keeps. -/

namespace Sys2Proof.Laws

open Sys2Proof.Machine

/-! PACK lane by lane -/

theorem getLsbD_pack_aceDup (m : CardMask) (q : Suit) : (pack m).getLsbD (16 * q.val) = m.getLsbD (13 * q.val + 12) := by
  rw [getLsbD_pack m (by omega), if_pos (by omega), show 16 * q.val / 16 = q.val by omega]

theorem getLsbD_pack_rank (m : CardMask) (q : Suit) {j : Nat} (hj : j < 13) :
    (pack m).getLsbD (16 * q.val + (j + 1)) = m.getLsbD (13 * q.val + j) := by
  rw [getLsbD_pack m (by omega), if_neg (by omega), decide_eq_true (by omega), Bool.true_and,
    show (16 * q.val + (j + 1)) / 16 = q.val by omega, show (16 * q.val + (j + 1)) % 16 - 1 = j by omega]

/-! Conditions (a) and (b) of R64 -/

theorem getLsbD_handUnused {i : Nat} (hi : i < 64) : handUnused.getLsbD i = decide (14 ≤ i % 16) := by
  have hall : ∀ i < 64, handUnused.getLsbD i = decide (14 ≤ i % 16) := by decide
  exact hall i hi

theorem getLsbD_of_unusedClear {hand : Word} (h : unusedClear hand = true) (q : Suit) {j : Nat} (hj : j < 16)
    (hunused : 14 ≤ j) : hand.getLsbD (16 * q.val + j) = false := by
  have hbit := congrArg (fun v => v.getLsbD (16 * q.val + j)) (beq_iff_eq.mp h)
  have hset : handUnused.getLsbD (16 * q.val + j) = true := by
    rw [getLsbD_handUnused (by omega), decide_eq_true (by omega)]
  simpa [hset] using hbit

theorem acesAgree_iff (hand : Word) :
    acesAgree hand = true ↔ ∀ q : Suit, hand.getLsbD (16 * q.val) = hand.getLsbD (16 * q.val + 13) := by
  simp [acesAgree]

/-! UNPACK inverts PACK (R102) -/

/-- UNPACK bit by bit: bit `13q + j` of the mask is bit `16q + j + 1` of the hand, for `j` below 13. -/
theorem getLsbD_unpack (hand : Word) {i : Nat} (hi : i < 52) :
    (unpack hand).getLsbD i = hand.getLsbD (16 * (i / 13) + (i % 13 + 1)) := by
  interval_cases i <;> simp [unpack]

theorem getLsbD_unpack_rank (hand : Word) (q : Suit) {j : Nat} (hj : j < 13) :
    (unpack hand).getLsbD (13 * q.val + j) = hand.getLsbD (16 * q.val + (j + 1)) := by
  rw [getLsbD_unpack hand (by omega), show (13 * q.val + j) / 13 = q.val by omega,
    show (13 * q.val + j) % 13 = j by omega]

theorem unpack_pack (m : CardMask) : unpack (pack m) = m := by
  apply BitVec.eq_of_getLsbD_eq
  intro i hi
  rw [getLsbD_unpack _ hi, getLsbD_pack_rank m ⟨i / 13, by omega⟩ (Nat.mod_lt i (by decide)), Nat.div_add_mod]

/-- Words are equal when they agree in every lane. -/
theorem word_eq_of_lanes {v w : Word}
    (h : ∀ q : Suit, ∀ j < 16, v.getLsbD (16 * q.val + j) = w.getLsbD (16 * q.val + j)) : v = w := by
  apply BitVec.eq_of_getLsbD_eq
  intro i hi
  have hbit := h ⟨i / 16, by omega⟩ (i % 16) (Nat.mod_lt i (by decide))
  rwa [Nat.div_add_mod] at hbit

/-- A lane is its ranks, which UNPACK keeps, its ace duplicate, which (b) gives back, and two bits (a) clears. -/
theorem pack_unpack {hand : Word} (hunused : unusedClear hand = true) (haces : acesAgree hand = true) :
    pack (unpack hand) = hand := by
  apply word_eq_of_lanes
  intro q j hj
  obtain rfl | ⟨k, rfl, hk⟩ | hhigh : j = 0 ∨ (∃ k, j = k + 1 ∧ k < 13) ∨ 14 ≤ j := by
    cases j with
    | zero => exact .inl rfl
    | succ k => exact .inr ((Nat.lt_or_ge k 13).imp (fun h => ⟨k, rfl, h⟩) Nat.succ_le_succ)
  · rw [Nat.add_zero, getLsbD_pack_aceDup, getLsbD_unpack_rank hand q (by decide), (acesAgree_iff hand).mp haces q]
  · rw [getLsbD_pack_rank _ q hk, getLsbD_unpack_rank hand q hk]
  · rw [getLsbD_of_unusedClear (unusedClear_pack _) q hj hhigh, getLsbD_of_unusedClear hunused q hj hhigh]

/-- The image of PACK is the words that meet (a) and (b). -/
theorem unusedClear_and_acesAgree_iff (hand : Word) :
    unusedClear hand = true ∧ acesAgree hand = true ↔ ∃ m, pack m = hand := by
  constructor
  · rintro ⟨hunused, haces⟩
    exact ⟨unpack hand, pack_unpack hunused haces⟩
  · rintro ⟨m, rfl⟩
    exact ⟨unusedClear_pack m, acesAgree_pack m⟩

/-! The number of cards (R101) -/

/-- The cards of a mask, suit by suit. -/
theorem popcount_eq_sum_chunks (m : CardMask) :
    popcount m = ∑ q : Suit, ∑ j ∈ Finset.range 13, (m.getLsbD (13 * q.val + j)).toNat := by
  have hchunks : Finset.range 52 = Finset.range (13 + 13 + 13 + 13) := rfl
  rw [popcount_eq_sum, hchunks, Finset.sum_range_add, Finset.sum_range_add, Finset.sum_range_add, Fin.sum_univ_four]
  simp

/-- A lane of a packed mask holds the cards of its suit's chunk; the ace duplicate is not among them. -/
theorem popcount_rankLane_pack (m : CardMask) (q : Suit) :
    popcount ((rankLanes (pack m)).get q) = ∑ j ∈ Finset.range 13, (m.getLsbD (13 * q.val + j)).toNat := by
  have hdup : (((rankLanes (pack m)).get q).getLsbD 0).toNat = 0 := by
    rw [getLsbD_rankLanes]
    rfl
  rw [popcount_eq_sum, Finset.sum_range_succ', hdup, Nat.add_zero]
  refine Finset.sum_congr rfl fun j hj => ?_
  rw [Finset.mem_range] at hj
  rw [getLsbD_rankLanes, getLsbD_pack_rank m q hj, decide_eq_true (by omega), decide_eq_true (by omega), Bool.true_and,
    Bool.true_and]

theorem cardCount_pack (m : CardMask) : cardCount (pack m) = popcount m := by
  simp only [cardCount_eq_sum_lanes, popcount_rankLane_pack, popcount_eq_sum_chunks]

theorem wellFormedHand_iff (hand : Word) :
    wellFormedHand hand = true ↔ (unusedClear hand = true ∧ acesAgree hand = true) ∧
      (cardCount hand = 5 ∨ cardCount hand = 6 ∨ cardCount hand = 7) := by
  simp only [wellFormedHand, Bool.and_eq_true, Bool.or_eq_true, beq_iff_eq, or_assoc]

/-- `WELL_FORMED` says PACK of five, six or seven cards (R64). -/
theorem wellFormedHand_iff_pack (hand : Word) :
    wellFormedHand hand = true ↔ ∃ m, pack m = hand ∧ (popcount m = 5 ∨ popcount m = 6 ∨ popcount m = 7) := by
  rw [wellFormedHand_iff, unusedClear_and_acesAgree_iff, ← exists_and_right]
  refine exists_congr fun m => and_congr_right ?_
  rintro rfl
  rw [cardCount_pack]

/-- Settles O36: the bits of PACK's result are those of its lanes, and so are the cards it counts. -/
theorem packPlacesEveryCard : Obligations.PackPlacesEveryCard := by
  intro m s
  refine ⟨s.setPacked (pack m), rfl, rfl, fun rank q hlo hhi => ?_, fun q => ⟨getLsbD_pack_aceDup m q, ?_, ?_⟩,
    cardCount_pack m⟩
  · rw [Nat.add_sub_assoc (by omega), Nat.add_sub_assoc hlo]
    exact getLsbD_pack_handBit m q hlo hhi
  · exact getLsbD_of_unusedClear (unusedClear_pack m) q (by decide) le_rfl
  · exact getLsbD_of_unusedClear (unusedClear_pack m) q (by decide) (by decide)

/-- Settles O37: UNPACK inverts PACK on every mask, and PACK inverts UNPACK where (a) and (b) hold. -/
theorem packIsInvertibleOntoItsImage : Obligations.PackIsInvertibleOntoItsImage :=
  ⟨unpack_pack, Function.LeftInverse.injective unpack_pack,
    fun hand => ⟨unusedClear_and_acesAgree_iff hand, pack_unpack, wellFormedHand_iff_pack hand⟩⟩

end Sys2Proof.Laws
end

section
/-! SUPPORT. The lanes of a hand and their union (41_bit_pattern_matcher.md R120 to R124): what BPM_LANES and BPM_PRESENCE
write, which ranks all lanes share, and how many ranks a mask or a lane holds. -/

namespace Sys2Proof.Laws

open Sys2Proof.Machine

/-! The lanes (R120) -/

theorem getLsbD_straightLanes (hand : Word) (q : Suit) (j : Nat) :
    ((straightLanes hand).get q).getLsbD j = (decide (j < 14) && hand.getLsbD (16 * q.val + j)) := by
  rw [straightLanes, perSuit_get_ofFn, getLsbD_laneBits]

/-- A lane of real ranks is the whole lane without the ace duplicate. -/
theorem getLsbD_rankLanes_of_straightLanes (hand : Word) (q : Suit) (j : Nat) :
    ((rankLanes hand).get q).getLsbD j = (decide (1 ≤ j) && ((straightLanes hand).get q).getLsbD j) := by
  rw [getLsbD_rankLanes, getLsbD_straightLanes, Bool.and_assoc]

/-- Lane bits 15 and 14 are not read (D11). -/
theorem laneBits_xor_unused (hand unused : Word) (q : Suit) :
    laneBits (hand ^^^ (unused &&& handUnused)) q = laneBits hand q := by
  apply BitVec.eq_of_getLsbD_eq
  intro j hj
  have hclear : handUnused.getLsbD (16 * q.val + j) = false := by
    rw [getLsbD_handUnused (by omega), decide_eq_false (by omega)]
  rw [getLsbD_laneBits, getLsbD_laneBits, BitVec.getLsbD_xor, BitVec.getLsbD_and, hclear, Bool.and_false, Bool.xor_false]

theorem straightLanes_xor_unused (hand unused : Word) :
    straightLanes (hand ^^^ (unused &&& handUnused)) = straightLanes hand :=
  congrArg PerSuit.ofFn (funext (laneBits_xor_unused hand unused))

theorem exec_bpmLanes (hand : Word) (s : State) : exec (.bpmLanes hand) s =
    .next (s.setMatcher { s.matcher with w := straightLanes hand, r := rankLanes hand }) := rfl

/-- Settles O39: the lanes are read off the hand bit by bit, and both sets of lanes from bits 13..0 alone. -/
theorem bpmLanesSplitsTheHand : Obligations.BpmLanesSplitsTheHand := by
  intro hand s
  refine ⟨_, exec_bpmLanes hand s, rfl, fun q j hj => ?_, fun q j => getLsbD_rankLanes_of_straightLanes hand q j,
    fun unused => ?_⟩
  · exact (getLsbD_straightLanes hand q j).trans (by rw [decide_eq_true hj, Bool.true_and])
  · have hlanes := straightLanes_xor_unused hand unused
    have hranks : rankLanes (hand ^^^ (unused &&& handUnused)) = rankLanes hand := by rw [rankLanes, hlanes, rankLanes]
    rw [← hlanes, ← hranks]
    exact exec_bpmLanes _ s

/-! The union of the lanes (R121) -/

theorem getLsbD_presentRanks_of_orLanes (w : PerSuit Mask) (j : Nat) :
    (presentRanks w).getLsbD j = (decide (1 ≤ j) && (orLanes w).getLsbD j) := by
  rw [presentRanks, BitVec.getLsbD_and, getLsbD_laneRanks, Bool.and_comm]
  by_cases hj : j < 14
  · rw [decide_eq_true hj, Bool.and_true]
  · rw [BitVec.getLsbD_of_ge (orLanes w) j (by omega), Bool.and_false, Bool.and_false]

/-- Condition (b) of R64, seen through the union: the ace duplicate is there iff the Ace is. -/
theorem orLanes_ace_of_acesAgree {hand : Word} (h : acesAgree hand = true) :
    (orLanes (straightLanes hand)).getLsbD 0 = (orLanes (straightLanes hand)).getLsbD 13 := by
  rw [Bool.eq_iff_iff, getLsbD_orLanes, getLsbD_orLanes]
  refine exists_congr fun q => ?_
  rw [getLsbD_straightLanes, getLsbD_straightLanes, Nat.add_zero, (acesAgree_iff hand).mp h q]
  rfl

theorem acesAgree_of_wellFormed {hand : Word} (h : wellFormedHand hand = true) : acesAgree hand = true := by
  obtain ⟨⟨-, haces⟩, -⟩ := (wellFormedHand_iff hand).mp h
  exact haces

/-- Settles O40: OR14 is the union of the lanes and PRESENT its real ranks; in contract each lane's Ace agrees with its
duplicate, so the union's does. -/
theorem bpmPresenceUnitesTheLanes : Obligations.BpmPresenceUnitesTheLanes := by
  intro w s
  refine ⟨_, rfl, rfl, getLsbD_orLanes w, getLsbD_presentRanks_of_orLanes w, ?_⟩
  rintro hand hw rfl
  exact orLanes_ace_of_acesAgree (acesAgree_of_wellFormed hw)

/-! The ranks all lanes share (R122) -/

/-- Above bit 0 nothing is free: BPM_QUADS writes the intersection of the lanes. -/
theorem getLsbD_quadsNet_of_pos (r : PerSuit Mask) {j : Nat} (hj : 1 ≤ j) :
    (quadsNet r).getLsbD j = (quadRanks r).getLsbD j := by
  obtain ⟨-, h⟩ | ⟨-, h⟩ := quadsNet_cases r
  · rw [h]
  · have hfree : ((BitVec.ofBool (Config.freeQuadsBit r)).setWidth 14).getLsbD j = false := by
      rw [BitVec.getLsbD_setWidth, BitVec.getLsbD_of_ge _ j hj, Bool.and_false]
    rw [h, BitVec.getLsbD_or, hfree, Bool.or_false, BitVec.getLsbD_and, getLsbD_laneRanks, decide_eq_true hj,
      Bool.true_and]
    by_cases hlt : j < 14
    · rw [decide_eq_true hlt, Bool.and_true]
    · rw [BitVec.getLsbD_of_ge (quadRanks r) j (by omega), Bool.false_and]

/-- Bit 0 is free exactly where all four lanes have it set (log 20). -/
theorem getLsbD_quadsNet_zero (r : PerSuit Mask) :
    (quadsNet r).getLsbD 0 = if ∀ q : Suit, (r.get q).getLsbD 0 = true then Config.freeQuadsBit r else false := by
  simp only [← getLsbD_quadRanks]
  obtain ⟨hreal, h⟩ | ⟨hreal, h⟩ := quadsNet_cases r
  · rw [h, (realRanks_iff _).mp hreal, if_neg Bool.false_ne_true]
  · have hall : (quadRanks r).getLsbD 0 = true := by simpa only [realRanks, Bool.not_eq_false'] using hreal
    rw [h, if_pos hall, BitVec.getLsbD_or, BitVec.getLsbD_and, getLsbD_laneRanks]
    simp

/-- Four of a rank are four of at most seven cards. -/
theorem popcount_quadRanks_le_one {hand : Word} (h : wellFormedHand hand = true) :
    popcount (quadRanks (rankLanes hand)) ≤ 1 := by
  have htally : 4 * popcount (quadRanks (rankLanes hand)) ≤ cardCount hand :=
    (cardCount_eq_tally hand).symm ▸ Nat.le_add_left _ _
  have := cardCount_of_wellFormed h
  omega

/-- Settles O41: above bit 0 the result is the lanes' intersection; on a hand's lanes bit 0 is never set, so nothing is
free. -/
theorem bpmQuadsIntersectsTheLanes : Obligations.BpmQuadsIntersectsTheLanes := by
  intro r s
  refine ⟨_, rfl, rfl, fun j hj => ?_, getLsbD_quadsNet_zero r, ?_, ?_⟩
  · rw [← getLsbD_quadRanks, ← getLsbD_quadsNet_of_pos r hj]
    rfl
  · rintro hand rfl
    exact (realRanks_iff _).mp (realRanks_quadsNet (rankLanes_real hand))
  · rintro hand rfl hw
    exact (congrArg popcount (quadsNet_of_real _ (rankLanes_real hand))).trans_le (popcount_quadRanks_le_one hw)

/-! The numbers of ranks (R123, R124) -/

/-- The number of 1 bits is the number of rank indices set. -/
theorem popcount_eq_card (m : Mask) :
    popcount m = (Finset.univ.filter fun j : Fin 14 => m.getLsbD j.val = true).card := by
  rw [popcount_eq_sum, ← Fin.sum_univ_eq_sum_range (fun j => (m.getLsbD j).toNat), Finset.card_filter]
  refine Finset.sum_congr rfl fun j _ => ?_
  cases m.getLsbD j.val <;> rfl

/-- A count on a 4-bit net, or a value in 0..13 where bit 0 leaves the count free (log 20). -/
theorem toNat_countNet_or_free (m : Mask) (free : Fin 14) :
    (if realRanks m then countNet m else BitVec.ofNat 4 free.val).toNat =
      if m.getLsbD 0 = true then free.val else popcount m := by
  have hfree : free.val % 2 ^ 4 = free.val := Nat.mod_eq_of_lt (by omega)
  cases h : m.getLsbD 0 with
  | false => rw [if_pos ((realRanks_iff m).mpr h), if_neg Bool.false_ne_true, countNet_toNat]
  | true => rw [realRanks, h, Bool.not_true, if_neg Bool.false_ne_true, if_pos rfl, BitVec.toNat_ofNat, hfree]

theorem toNat_distinctNet (present : Mask) : (distinctNet present).toNat =
    if present.getLsbD 0 = true then (Config.freeDistinct present).val else popcount present :=
  toNat_countNet_or_free present _

theorem toNat_suitcountNet (q : Suit) (lane : Mask) : (suitcountNet q lane).toNat =
    if lane.getLsbD 0 = true then (Config.freeSuitcount q lane).val else popcount lane :=
  toNat_countNet_or_free lane _

/-- Rank index `j + 1` is present iff some suit holds it. -/
theorem getLsbD_presentRanks_succ (hand : Word) {j : Nat} (hj : j < 13) :
    (presentRanks (straightLanes hand)).getLsbD (j + 1) =
      (List.finRange 4).any fun q => hand.getLsbD (16 * q.val + (j + 1)) := by
  rw [Bool.eq_iff_iff, getLsbD_presentRanks, decide_eq_true_eq, rankCount_pos_iff, List.any_eq_true]
  refine exists_congr fun q => ?_
  rw [getLsbD_rankLanes, decide_eq_true (by omega), decide_eq_true (by omega)]
  simp

/-- Counting the ranks present is counting, over the thirteen ranks, those some suit holds: bit 0 is none of them. -/
theorem popcount_presentRanks (hand : Word) : popcount (presentRanks (straightLanes hand)) =
    (List.range 13).countP fun j => (List.finRange 4).any fun q => hand.getLsbD (16 * q.val + (j + 1)) := by
  have hzero : ¬ (presentRanks (straightLanes hand)).getLsbD 0 = true :=
    Bool.eq_false_iff.mp ((realRanks_iff _).mp (presentRanks_real (straightLanes hand)))
  rw [popcount, List.range_succ_eq_map, List.countP_cons_of_neg hzero, List.countP_map]
  refine List.countP_congr fun j hj => ?_
  rw [← getLsbD_presentRanks_succ hand (List.mem_range.mp hj)]
  rfl

/-- On the PRESENT of a hand BPM_DISTINCT gives the hand's `N`. -/
theorem distinctNet_present (hand : Word) : distinctNet (matcherNets hand).present = (matcherNets hand).n :=
  distinctNet_of_real _ (presentRanks_real _)

/-- Settles O42: the count is a population count, which for a hand's PRESENT counts the ranks some suit holds. -/
theorem bpmDistinctCountsTheRanks : Obligations.BpmDistinctCountsTheRanks := by
  intro present s
  refine ⟨_, rfl, rfl, distinctNet_le present, ?_, ?_, ?_, ?_⟩
  · rw [← popcount_eq_card, ← toNat_distinctNet]
    rfl
  · rintro hand rfl
    calc (distinctNet (matcherNets hand).present).toNat
        = popcount (presentRanks (straightLanes hand)) := by rw [distinctNet_present]; exact countNet_toNat _
      _ = _ := popcount_presentRanks hand
  · rw [sentinelCondition, Bool.or_eq_true, decide_eq_true_eq, decide_eq_true_eq]
  · rintro hand hw rfl
    have hrange := distinctRanks_of_wellFormed hw
    rwa [← distinctNet_present] at hrange

/-- Two suits' cards are among the hand's cards. -/
theorem popcount_lanes_le_cardCount (hand : Word) {q q' : Suit} (h : q ≠ q') :
    popcount ((rankLanes hand).get q) + popcount ((rankLanes hand).get q') ≤ cardCount hand := by
  rw [cardCount_eq_sum_lanes]
  exact Finset.add_le_sum (f := fun q => popcount ((rankLanes hand).get q)) (fun _ _ => Nat.zero_le _)
    (Finset.mem_univ q) (Finset.mem_univ q') h

/-- Seven cards do not give two suits four each. -/
theorem suit_eq_of_four_le {hand : Word} (hw : wellFormedHand hand = true) {q q' : Suit}
    (hq : 4 ≤ popcount ((rankLanes hand).get q)) (hq' : 4 ≤ popcount ((rankLanes hand).get q')) : q = q' := by
  by_contra hne
  have := popcount_lanes_le_cardCount hand hne
  have := cardCount_of_wellFormed hw
  omega

/-- Settles O43: each lane's count is its population count, and the cards of a hand do not fill two lanes. -/
theorem bpmSuitcountCountsEachLane : Obligations.BpmSuitcountCountsEachLane := by
  intro r s
  have hget (q : Suit) : (suitcountNets r).get q = suitcountNet q (r.get q) := suitcountNets_get r q
  refine ⟨_, rfl, rfl, fun q => ⟨?_, ?_⟩, ?_⟩
  · exact (congrArg BitVec.toNat (hget q)).trans_le (suitcountNet_le q (r.get q))
  · rw [← popcount_eq_card, ← toNat_suitcountNet]
    exact congrArg BitVec.toNat (hget q)
  · rintro hand hw rfl q q' hq hq'
    have hfour (q : Suit) (h : 5 ≤ ((suitcountNets (rankLanes hand)).get q).toNat) :
        4 ≤ popcount ((rankLanes hand).get q) := by
      rw [suitcountNets_of_real _ (rankLanes_real hand), perSuit_get_map, countNet_toNat] at h
      omega
    exact suit_eq_of_four_le hw (hfour q hq) (hfour q' hq')

end Sys2Proof.Laws
end

section
/-! SUPPORT. The straight detector (41_bit_pattern_matcher.md R125 to R127, D24): five consecutive set bits, in one mask, in
each lane, in the union of the lanes, and in the packed hand as one word. -/

namespace Sys2Proof.Laws

open Sys2Proof.Machine

/-- A word met with its four shifts marks the top of every run of five set bits, at any width. -/
theorem getLsbD_and_shifts {n : Nat} (v : BitVec n) (i : Nat) :
    (v &&& (v <<< 1) &&& (v <<< 2) &&& (v <<< 3) &&& (v <<< 4)).getLsbD i = true ↔
      4 ≤ i ∧ ∀ d : Nat, d ≤ 4 → v.getLsbD (i - d) = true := by
  have hfive : (∀ d : Nat, d ≤ 4 → v.getLsbD (i - d) = true) ↔ v.getLsbD i = true ∧ v.getLsbD (i - 1) = true ∧
      v.getLsbD (i - 2) = true ∧ v.getLsbD (i - 3) = true ∧ v.getLsbD (i - 4) = true := by
    refine ⟨fun h => ⟨h 0 (by omega), h 1 (by omega), h 2 (by omega), h 3 (by omega), h 4 le_rfl⟩, ?_⟩
    rintro ⟨h0, h1, h2, h3, h4⟩ d hd
    interval_cases d <;> assumption
  rw [hfive]
  simp only [BitVec.getLsbD_and, BitVec.getLsbD_shiftLeft, Bool.and_eq_true, decide_eq_true_eq, Bool.not_eq_true',
    decide_eq_false_iff_not]
  constructor
  · rintro ⟨⟨⟨⟨h0, -, h1⟩, -, h2⟩, -, h3⟩, ⟨-, hlo⟩, h4⟩
    exact ⟨by omega, h0, h1, h2, h3, h4⟩
  · rintro ⟨hlo, h0, h1, h2, h3, h4⟩
    have hi : i < n := BitVec.lt_of_getLsbD h0
    exact ⟨⟨⟨⟨h0, ⟨hi, by omega⟩, h1⟩, ⟨hi, by omega⟩, h2⟩, ⟨hi, by omega⟩, h3⟩, ⟨hi, by omega⟩, h4⟩

theorem getLsbD_straightMask_iff (m : Mask) (j : Nat) : (straightMask m).getLsbD j = true ↔
    4 ≤ j ∧ j ≤ 13 ∧ ∀ d : Nat, d ≤ 4 → m.getLsbD (j - d) = true := by
  rw [straightMask, getLsbD_and_shifts]
  refine and_congr_right fun _ => (and_iff_right_of_imp fun h => ?_).symm
  exact Nat.le_of_lt_succ (BitVec.lt_of_getLsbD (h 0 (Nat.zero_le 4)))

/-- The corner cases of R125: no card, an Ace between King and 2, a wheel without its ace duplicate. -/
theorem straightMask_of_no_run {m : Mask} (h : m = 0 ∨ m = 0x3807 ∨ m = 0x201E) : straightMask m = 0 := by
  obtain rfl | rfl | rfl := h <;> decide

theorem straightMask_two_runs : straightMask 0x3EFE = 0x20E0 := by decide

/-- Settles O44: the detector's bit is the meet of the five bits up to it. -/
theorem bpmStraightMarksEveryHighCard : Obligations.BpmStraightMarksEveryHighCard := by
  intro m s
  refine ⟨_, rfl, rfl, getLsbD_straightMask_iff m, straightMask_of_no_run, ?_⟩
  rintro rfl
  exact straightMask_two_runs

/-- Settles O46: STM is the detector on OR14, which does not say whose bits they are; the wheel is the run of bits 4..0. -/
theorem bpmStdetectIgnoresSuits : Obligations.BpmStdetectIgnoresSuits := by
  intro or14 s
  refine ⟨_, rfl, rfl, getLsbD_straightMask_iff or14, fun hwheel => ?_⟩
  refine (getLsbD_straightMask_iff or14 4).mpr ⟨le_rfl, by decide, fun d hd => ?_⟩
  have hlow : ∀ d ≤ 4, (0x1F : Mask).getLsbD (4 - d) = true := by decide
  have hbit := congrArg (fun m => m.getLsbD (4 - d)) hwheel
  rwa [BitVec.getLsbD_and, hlow d hd, Bool.and_true] at hbit

/-! Straight flushes (R126) -/

theorem getLsbD_straightFlushMask (w : PerSuit Mask) (j : Nat) : (straightFlushMask w).getLsbD j = true ↔
    ∃ q : Suit, 4 ≤ j ∧ j ≤ 13 ∧ ∀ d : Nat, d ≤ 4 → (w.get q).getLsbD (j - d) = true := by
  simp only [straightFlushMask, getLsbD_orLanes, perSuit_get_map, getLsbD_straightMask_iff]

/-- With lane bits 15 and 14 clear no run of five crosses from one lane into the next (D24). -/
theorem getLsbD_wholeWordStraight {hand : Word} (h : unusedClear hand = true) (q : Suit) {j : Nat} (hj : j < 16) :
    (wholeWordStraight hand).getLsbD (16 * q.val + j) = (straightMask ((straightLanes hand).get q)).getLsbD j := by
  rw [Bool.eq_iff_iff, wholeWordStraight, getLsbD_and_shifts, getLsbD_straightMask_iff]
  constructor
  · rintro ⟨hlo, hrun⟩
    have hj13 : j ≤ 13 := by
      by_contra hhigh
      exact absurd (hrun 0 (by omega)) (Bool.eq_false_iff.mp (getLsbD_of_unusedClear h q hj (by omega)))
    have hj4 : 4 ≤ j := by
      by_contra hcross
      have hbelow := getLsbD_of_unusedClear h ⟨q.val - 1, by omega⟩ (j := 15) (by decide) (by decide)
      have hbit := hrun (j + 1) (by omega)
      rw [show 16 * q.val + j - (j + 1) = 16 * (q.val - 1) + 15 by omega, hbelow] at hbit
      cases hbit
    refine ⟨hj4, hj13, fun d hd => ?_⟩
    rw [getLsbD_straightLanes, decide_eq_true (by omega), Bool.true_and, ← Nat.add_sub_assoc (by omega)]
    exact hrun d hd
  · rintro ⟨hj4, hj13, hrun⟩
    refine ⟨by omega, fun d hd => ?_⟩
    have hbit := hrun d hd
    rw [getLsbD_straightLanes, Bool.and_eq_true] at hbit
    rw [Nat.add_sub_assoc (by omega)]
    exact hbit.2

/-- A straight in a lane takes four real ranks at least: all five, or a wheel's four above the ace duplicate. -/
theorem four_le_popcount_of_straight {hand : Word} {q : Suit} (h : straightMask ((straightLanes hand).get q) ≠ 0) :
    4 ≤ popcount ((rankLanes hand).get q) := by
  obtain ⟨j, -, hj⟩ := List.countP_pos_iff.mp ((popcount_pos_iff _).mpr h)
  obtain ⟨hlo, hhi, hrun⟩ := (getLsbD_straightMask_iff _ j).mp hj
  have hrank (i : Nat) (hi : i ∈ Finset.Icc (j - 3) j) : (((rankLanes hand).get q).getLsbD i).toNat = 1 := by
    rw [Finset.mem_Icc] at hi
    have hbit := hrun (j - i) (by omega)
    rw [Nat.sub_sub_self hi.2] at hbit
    rw [getLsbD_rankLanes_of_straightLanes, hbit, decide_eq_true (by omega)]
    rfl
  have hsub : Finset.Icc (j - 3) j ⊆ Finset.range 14 := fun i hi => by
    rw [Finset.mem_Icc] at hi
    exact Finset.mem_range.mpr (by omega)
  calc 4 = ∑ i ∈ Finset.Icc (j - 3) j, (((rankLanes hand).get q).getLsbD i).toNat := by
        rw [Finset.sum_congr rfl hrank, Finset.sum_const, Nat.card_Icc, smul_eq_mul, Nat.mul_one]
        omega
    _ ≤ popcount ((rankLanes hand).get q) := by
        rw [popcount_eq_sum]
        exact Finset.sum_le_sum_of_subset hsub

/-- Settles O45: a straight flush is a straight of one lane; in the whole word no run leaves its lane, and two lanes with a
straight would need eight cards. -/
theorem bpmSfdetectUnitesTheLanesStraights : Obligations.BpmSfdetectUnitesTheLanesStraights := by
  intro w s
  refine ⟨_, rfl, rfl, getLsbD_straightFlushMask w, ?_, ?_⟩
  · rintro hand rfl hunused j hj
    calc (straightFlushMask (straightLanes hand)).getLsbD j
        = (List.finRange 4).any fun q => (straightMask ((straightLanes hand).get q)).getLsbD j := by
          rw [Bool.eq_iff_iff, straightFlushMask, getLsbD_orLanes]
          simp
      _ = someLaneBit (wholeWordStraight hand) j := by
          simp only [someLaneBit, getLsbD_wholeWordStraight hunused _ hj]
  · rintro hand rfl hw q q' hq hq'
    exact suit_eq_of_four_le hw (four_le_popcount_of_straight hq) (four_le_popcount_of_straight hq')

end Sys2Proof.Laws
end

section
/-! SUPPORT. The occurrence counts per rank (41_bit_pattern_matcher.md R128, R129): the tally masks go by the number of lanes
that hold a rank, so no rank is in two of them, and a carry-save adder over the four lanes computes them. -/

namespace Sys2Proof.Laws

open Sys2Proof.Machine

theorem card_lanes_eq_rankCount (r : PerSuit Mask) (j : Nat) :
    (Finset.univ.filter fun q : Suit => (r.get q).getLsbD j = true).card = rankCount r j := by
  have hbit (b : Bool) : (if b = true then 1 else 0) = b.toNat := by cases b <;> rfl
  simp only [Finset.card_filter, Fin.sum_univ_four, hbit]
  rfl

theorem getLsbD_ranksHeld_iff (r : PerSuit Mask) (c : Nat) {j : Nat} (hlo : 1 ≤ j) (hhi : j ≤ 13) :
    (ranksHeld r c).getLsbD j = true ↔ rankCount r j = c := by
  rw [getLsbD_ranksHeld, decide_eq_true hlo, decide_eq_true (Nat.lt_succ_of_le hhi), Bool.true_and, Bool.true_and,
    beq_iff_eq]

theorem getLsbD_ranksHeld_zero (r : PerSuit Mask) (c : Nat) : (ranksHeld r c).getLsbD 0 = false :=
  (realRanks_iff _).mp (realRanks_ranksHeld r c)

/-- What a set bit of a tally mask says about its rank. -/
theorem rankCount_of_ranksHeld {r : PerSuit Mask} {c j : Nat} (h : (ranksHeld r c).getLsbD j = true) :
    rankCount r j = c := by
  rw [getLsbD_ranksHeld, Bool.and_eq_true, beq_iff_eq] at h
  exact h.2

/-! No rank is held two numbers of times -/

theorem mask_disjoint {x y : Mask} (h : ∀ j, x.getLsbD j = true → y.getLsbD j = true → False) : x &&& y = 0 :=
  beq_iff_eq.mp <| and_beq_zero_of_bits fun j _ hy => Bool.eq_false_iff.mpr fun hx => h j hx hy

theorem ranksHeld_disjoint (r : PerSuit Mask) {c c' : Nat} (h : c ≠ c') : ranksHeld r c &&& ranksHeld r c' = 0 :=
  mask_disjoint fun _ hc hc' => h ((rankCount_of_ranksHeld hc).symm.trans (rankCount_of_ranksHeld hc'))

theorem ranksHeld_disjoint_quadRanks (r : PerSuit Mask) :
    (ranksHeld r 1 ||| ranksHeld r 2 ||| ranksHeld r 3) &&& quadRanks r = 0 := by
  apply mask_disjoint
  intro j hheld hquad
  rw [getLsbD_quadRanks_eq, beq_iff_eq] at hquad
  rw [BitVec.getLsbD_or, BitVec.getLsbD_or, Bool.or_eq_true, Bool.or_eq_true] at hheld
  obtain (h | h) | h := hheld <;> have := rankCount_of_ranksHeld h <;> omega

/-- A rank of a hand that is present is held one, two, three or four times. -/
theorem ranksHeld_union (hand : Word) :
    ranksHeld (rankLanes hand) 1 ||| ranksHeld (rankLanes hand) 2 ||| ranksHeld (rankLanes hand) 3 |||
      quadRanks (rankLanes hand) = (matcherNets hand).present := by
  apply BitVec.eq_of_getLsbD_eq
  intro j hj
  have hpresent : (matcherNets hand).present.getLsbD j = decide (1 ≤ rankCount (rankLanes hand) j) :=
    getLsbD_presentRanks hand j
  have hle := rankCount_le_four (rankLanes hand) j
  simp (disch := omega) only [BitVec.getLsbD_or, getLsbD_ranksHeld_rankLanes, getLsbD_quadRanks_eq, hpresent]
  interval_cases rankCount (rankLanes hand) j <;> rfl

/-- At most seven cards hold at most two ranks three times and three ranks twice. -/
theorem popcount_tally_of_wellFormed {hand : Word} (h : wellFormedHand hand = true) :
    popcount (matcherNets hand).trips ≤ 2 ∧ popcount (matcherNets hand).pairs ≤ 3 := by
  have := cardCount_eq_tally hand
  have := cardCount_of_wellFormed h
  omega

/-- Settles O47: each tally mask is the ranks one number of lanes holds, and a rank has one such number. -/
theorem bpmTallyPartitionsTheRanks : Obligations.BpmTallyPartitionsTheRanks := by
  intro r s
  refine ⟨_, rfl, rfl, fun j hlo hhi => ?_, getLsbD_ranksHeld_zero r 1, getLsbD_ranksHeld_zero r 2,
    getLsbD_ranksHeld_zero r 3, ?_, ?_⟩
  · have hquads : (quadRanks r).getLsbD j = true ↔ rankCount r j = 4 := by rw [getLsbD_quadRanks_eq, beq_iff_eq]
    dsimp only
    rw [card_lanes_eq_rankCount]
    exact ⟨getLsbD_ranksHeld_iff r 1 hlo hhi, getLsbD_ranksHeld_iff r 2 hlo hhi, getLsbD_ranksHeld_iff r 3 hlo hhi, hquads⟩
  · rintro hand rfl
    exact ⟨ranksHeld_union hand, ranksHeld_disjoint _ (by decide), ranksHeld_disjoint _ (by decide),
      ranksHeld_disjoint _ (by decide), ranksHeld_disjoint_quadRanks _⟩
  · rintro hand rfl hw
    exact popcount_tally_of_wellFormed hw

/-! The bit-parallel form (R129) -/

theorem rankCount_zero_of_real {r : PerSuit Mask} (h : r.all realRanks = true) : rankCount r 0 = 0 := by
  have hclear (q : Suit) : (r.get q).getLsbD 0 = false := (realRanks_iff _).mp ((perSuit_all_iff realRanks r).mp h q)
  have h0 : r.s0.getLsbD 0 = false := hclear 0
  have h1 : r.s1.getLsbD 0 = false := hclear 1
  have h2 : r.s2.getLsbD 0 = false := hclear 2
  have h3 : r.s3.getLsbD 0 = false := hclear 3
  rw [rankCount, h0, h1, h2, h3]
  rfl

/-- A mask that goes by a nonzero number of lanes at every index is that tally mask, if bit 0 of no lane is set. -/
theorem eq_ranksHeld_of_bits {r : PerSuit Mask} (hr : r.all realRanks = true) {c : Nat} (hc : 1 ≤ c) {m : Mask}
    (h : ∀ j < 14, m.getLsbD j = (rankCount r j == c)) : m = ranksHeld r c := by
  apply BitVec.eq_of_getLsbD_eq
  intro j hj
  rw [h j hj, getLsbD_ranksHeld, decide_eq_true hj, Bool.and_true]
  cases j with
  | zero =>
    rw [rankCount_zero_of_real hr]
    exact beq_eq_false_iff_ne.mpr (by omega)
  | succ j => rw [decide_eq_true (by omega), Bool.true_and]

/-- One column of the adder of R129, over all 16 combinations of a rank's four lane bits. -/
theorem carrySave_column (a b c d : Bool) :
    let s0 := (a ^^ b) ^^ (c ^^ d)
    let c0 := (a ^^ b) && (c ^^ d)
    let s1 := ((a && b) ^^ (c && d)) ^^ c0
    let s2 := ((a && b) && (c && d)) || (c0 && ((a && b) ^^ (c && d)))
    (s0 && !s1) = (a.toNat + b.toNat + c.toNat + d.toNat == 1) ∧
      (!s0 && s1) = (a.toNat + b.toNat + c.toNat + d.toNat == 2) ∧
      (s0 && s1) = (a.toNat + b.toNat + c.toNat + d.toNat == 3) ∧
      s2 = (a.toNat + b.toNat + c.toNat + d.toNat == 4) := by
  revert a b c d
  decide

theorem getLsbD_bitParallel (r : PerSuit Mask) (j : Nat) (hj : j < 14) :
    (bitParallelTally r).singles.getLsbD j = (rankCount r j == 1) ∧
      (bitParallelTally r).pairs.getLsbD j = (rankCount r j == 2) ∧
      (bitParallelTally r).trips.getLsbD j = (rankCount r j == 3) ∧
      (bitParallelQuads r).getLsbD j = (rankCount r j == 4) := by
  simp only [bitParallelTally, bitParallelQuads, BitVec.getLsbD_and, BitVec.getLsbD_or, BitVec.getLsbD_xor,
    BitVec.getLsbD_not, decide_eq_true hj, Bool.true_and]
  exact carrySave_column _ _ _ _

/-- Settles O48: index by index the adder counts the lanes, as the per-rank form does. -/
theorem bitParallelTallyEqualsThePerRankForm : Obligations.BitParallelTallyEqualsThePerRankForm := by
  intro r hr
  have hbits := getLsbD_bitParallel r
  simp only [imp_and, forall_and] at hbits
  obtain ⟨hsingles, hpairs, htrips, hquads⟩ := hbits
  refine ⟨?_, BitVec.eq_of_getLsbD_eq fun j hj => ?_⟩
  · rw [tallyOf, ← eq_ranksHeld_of_bits hr (by decide) hsingles, ← eq_ranksHeld_of_bits hr (by decide) hpairs,
      ← eq_ranksHeld_of_bits hr (by decide) htrips]
  · rw [hquads j hj, getLsbD_quadRanks_eq]

end Sys2Proof.Laws
end

section
/-! SUPPORT. The rank_encoder's three functions performed on their own (42_rank_encoder.md R150 to R152): HIBIT's bit stands
above every other bit of its mask, and so do TOPK's bits above those it drops. -/

namespace Sys2Proof.Laws

open Sys2Proof.Machine

/-! The highest rank (R150) -/

theorem hibit_of_highest {m : Mask} {j : Nat} (hj : m.getLsbD j = true) (habove : ∀ i, j < i → m.getLsbD i = false) :
    hibit m = BitVec.twoPow 14 j := by
  obtain ⟨rfl, -⟩ | ⟨i, -, htop, hi, hup⟩ := hibit_cases m
  · simp at hj
  · have hle : i ≤ j := not_lt.mp fun h => absurd hi (Bool.eq_false_iff.mp (habove i h))
    have hge : j ≤ i := not_lt.mp fun h => absurd hj (Bool.eq_false_iff.mp (hup j h))
    rw [htop, le_antisymm hle hge]

theorem exists_hibit_eq_twoPow {m : Mask} (h : m ≠ 0) : ∃ j, hibit m = BitVec.twoPow 14 j ∧ m.getLsbD j = true := by
  obtain ⟨hzero, -⟩ | ⟨j, -, htop, hj, -⟩ := hibit_cases m
  · exact absurd hzero h
  · exact ⟨j, htop, hj⟩

/-- No rank of a mask stands above the one HIBIT keeps. -/
theorem le_of_getLsbD_hibit {m : Mask} {i j : Nat} (hi : (hibit m).getLsbD i = true) (hj : m.getLsbD j = true) :
    j ≤ i := by
  obtain ⟨rfl, -⟩ | ⟨top, -, htop, -, hup⟩ := hibit_cases m
  · simp at hj
  · rw [htop, BitVec.getLsbD_twoPow, Bool.and_eq_true, decide_eq_true_eq, decide_eq_true_eq] at hi
    rw [← hi.2]
    exact not_lt.mp fun h => absurd hj (Bool.eq_false_iff.mp (hup j h))

theorem exec_reHibit (m : Mask) (s : State) : exec (.reHibit m) s = .next (s.setHibitOut (hibit m)) := rfl

/-- Settles O49: the result is HIBIT of the operand, and what HIBIT keeps is the mask's highest bit. -/
theorem reHibitKeepsTheHighestRank : Obligations.ReHibitKeepsTheHighestRank := by
  intro m s
  refine ⟨_, exec_reHibit m s, rfl, ?_, fun _ => hibit_of_highest, exists_hibit_eq_twoPow, hibit_of_one_rank⟩
  rintro rfl
  rfl

/-! The highest ranks (R151) -/

theorem topk_eq_self {m : Mask} {k : Nat} (h : popcount m ≤ k) : topk m k = m :=
  (topk_subMask m k).eq_of_popcount_le (by rw [popcount_topk, min_eq_right h])

/-- A rank TOPK drops stands below every rank it keeps: HIBIT's is the highest of all, and the others are TOPK of the rest. -/
theorem lt_of_dropped_by_topk {m : Mask} {k i j : Nat} (hi : (topk m k).getLsbD i = true) (hj : m.getLsbD j = true)
    (hdropped : (topk m k).getLsbD j = false) : j < i := by
  induction k generalizing m with
  | zero => simp at hi
  | succ k ih =>
    rw [topk_succ, BitVec.getLsbD_or] at hi hdropped
    obtain ⟨hnotTop, hnotRest⟩ := Bool.or_eq_false_iff.mp hdropped
    obtain htop | hrest := (Bool.or_eq_true _ _).mp hi
    · have hne : j ≠ i := by
        rintro rfl
        exact absurd htop (Bool.eq_false_iff.mp hnotTop)
      exact lt_of_le_of_ne (le_of_getLsbD_hibit htop hj) hne
    · have hleft : (m &&& ~~~hibit m).getLsbD j = true := by
        rw [BitVec.getLsbD_and, BitVec.getLsbD_not, hj, hnotTop, decide_eq_true (BitVec.lt_of_getLsbD hj)]
        rfl
      exact ih hrest hleft hnotRest

theorem topkNet_of_gt {m : Mask} {k : BitVec 3} (h : 5 < k.toNat) : topkNet m k = Config.freeTopk m k :=
  if_neg (not_le.mpr h)

theorem exec_reTopk (m : Mask) (k : BitVec 3) (s : State) :
    exec (.reTopk m k) s = .next (s.setTopkOut (topkNet m k)) := rfl

/-- Settles O50: up to a count of 5 the result is TOPK of the operand, part of the mask and above what it drops. -/
theorem reTopkKeepsTheHighestRanks : Obligations.ReTopkKeepsTheHighestRanks := by
  intro m k s
  refine ⟨_, exec_reTopk m k s, rfl, fun h => ?_, topkNet_of_gt⟩
  rw [State.setTopkOut_topkOut, topkNet_of_le m k h]
  refine ⟨topk_subMask m k.toNat, popcount_topk m k.toNat, fun _ _ => lt_of_dropped_by_topk, topk_eq_self, ?_⟩
  rintro rfl
  rfl

/-! The payload (R152) -/

theorem extractPrimary_payloadOf (p k : Mask) : (payloadOf p k).extractLsb' 16 14 = p := by
  have hp := p.isLt
  have hk := k.isLt
  apply BitVec.eq_of_toNat_eq
  rw [BitVec.extractLsb'_toNat, toNat_payloadOf, Nat.shiftRight_eq_div_pow]
  omega

theorem extractKickers_payloadOf (p k : Mask) : (payloadOf p k).extractLsb' 0 14 = k := by
  have hk := k.isLt
  apply BitVec.eq_of_toNat_eq
  rw [BitVec.extractLsb'_toNat, toNat_payloadOf, Nat.shiftRight_zero]
  omega

/-- The places of the two ace duplicates, bits 16 and 0, are clear for masks of real ranks (R68). -/
theorem payloadOf_aceDups_clear {p k : Mask} (hp : realRanks p = true) (hk : realRanks k = true) :
    payloadOf p k &&& 0x0001_0001 = 0 := by
  have hmask : ∀ i < 32, (0x0001_0001 : BitVec 32).getLsbD i = true → i = 0 ∨ i = 16 := by decide
  rw [realRanks_iff] at hp hk
  apply beq_iff_eq.mp
  apply and_beq_zero_of_bits
  intro i hi hset
  rw [getLsbD_payloadOf p k hi]
  obtain rfl | rfl := hmask i hi hset
  · rw [hk]
    rfl
  · rw [hp, BitVec.getLsbD_of_ge k 16 (by decide)]
    rfl

theorem exec_rePayload (p k : Mask) (s : State) :
    exec (.rePayload p k) s = .next (s.setValues { s.values with payload := payloadOf p k }) := rfl

/-- Settles O51: `P` and `K` are read back from the payload, whose other bits are clear. -/
theorem rePayloadPlacesBothMasks : Obligations.RePayloadPlacesBothMasks := by
  intro p k s
  exact ⟨_, exec_rePayload p k s, rfl, extractPrimary_payloadOf p k, extractKickers_payloadOf p k,
    beq_iff_eq.mp (payloadForm_payloadOf p k), payloadOf_aceDups_clear⟩

end Sys2Proof.Laws
end

section
/-! SUPPORT. The two fields of a value (42_rank_encoder.md R152, R153): the kickers are taken from ranks the primary mask does
not hold, so the fields share none, and the category says how many ranks each of them holds. -/

namespace Sys2Proof.Laws

open Sys2Proof.Machine

theorem and_eq_zero_of_subMasks {x x' y y' : Mask} (hx : SubMask x x') (hy : SubMask y y') (h : x' &&& y' = 0) :
    x &&& y = 0 := by
  apply mask_disjoint
  intro j hjx hjy
  have hbit := congrArg (fun v => v.getLsbD j) h
  simp [hx j hjx, hy j hjy] at hbit

/-- What is taken from the ranks a mask leaves over shares none with it. -/
theorem and_eq_zero_of_subMask_rest {x y m : Mask} (h : SubMask y (m &&& ~~~x)) : x &&& y = 0 := by
  apply mask_disjoint
  intro j hx hy
  have hrest := h j hy
  rw [BitVec.getLsbD_and, BitVec.getLsbD_not, hx, Bool.not_true, Bool.and_false, Bool.and_false] at hrest
  cases hrest

theorem subMask_refl (m : Mask) : SubMask m m := fun _ => id

theorem fieldsDisjoint_selectFiveRanks {m : MatcherNets} {sel : Selection} (h : selectFiveRanks m = some sel) :
    sel.p &&& sel.k = 0 := by
  obtain ⟨-, hsel⟩ | ⟨-, q, -, hsel⟩ | ⟨-, -, -, hsel⟩ | ⟨-, -, -, hsel⟩ := selectFiveRanks_cases m
  case inr.inr.inr => cases hsel.symm.trans h
  all_goals
    cases hsel.symm.trans h
    exact BitVec.and_zero

/-- The rules by counts take the kickers from what `P` leaves over, or from another tally mask. -/
theorem fieldsDisjoint_selectByCounts (hand : Word) :
    (selectByCounts (matcherNets hand)).p &&& (selectByCounts (matcherNets hand)).k = 0 := by
  have hsingles {c : Nat} (hc : c ≠ 1) (n : Nat) :
      ranksHeld (rankLanes hand) c &&& topk (matcherNets hand).singles n = 0 :=
    and_eq_zero_of_subMasks (subMask_refl _) (topk_subMask _ n) (ranksHeld_disjoint _ hc)
  obtain ⟨-, hsel⟩ | ⟨-, -, hsel⟩ | ⟨-, -, -, hsel⟩ | ⟨-, -, -, hsel⟩ | ⟨-, -, -, hsel⟩ | ⟨-, -, -, hsel⟩ | ⟨-, -, -, hsel⟩ :=
    selectByCounts_cases (matcherNets hand)
  all_goals rw [hsel]
  · exact and_eq_zero_of_subMask_rest (hibit_subMask _)
  · exact and_eq_zero_of_subMask_rest (hibit_subMask _)
  · exact and_eq_zero_of_subMasks (subMask_refl _) (hibit_subMask _) (ranksHeld_disjoint _ (by decide : 3 ≠ 2))
  · exact hsingles (by decide : 3 ≠ 1) 2
  · exact and_eq_zero_of_subMask_rest (hibit_subMask _)
  · exact hsingles (by decide : 2 ≠ 1) 3
  · exact BitVec.and_zero

theorem fieldsDisjoint_select (hand : Word) :
    (select (matcherNets hand)).p &&& (select (matcherNets hand)).k = 0 := by
  obtain ⟨-, hsel⟩ | ⟨-, hsel⟩ := select_cases (matcherNets hand)
  · exact fieldsDisjoint_selectFiveRanks hsel
  · rw [hsel]
    exact fieldsDisjoint_selectByCounts hand

/-- Settles O26: the three fields of the value are the selection's category and masks, which fit the category. -/
theorem categoryFixesTheFieldSizes : Obligations.CategoryFixesTheFieldSizes := by
  intro hand h
  obtain ⟨-, -, hpSize, hkSize⟩ := fieldsFit_select h
  have hdisjoint := fieldsDisjoint_select hand
  rw [classify_eq_valueOf h, categoryCodeOf_valueOf, primaryOf_valueOf, kickersOf_valueOf, hpSize, hkSize]
  refine ⟨?_, hdisjoint⟩
  cases (select (matcherNets hand)).cat <;> decide

end Sys2Proof.Laws
end

section
/-! SUPPORT. Masks compared as numbers and as lists of ranks (42_rank_encoder.md R153): the highest rank at which two masks
differ decides both comparisons. -/

namespace Sys2Proof.Laws

open Sys2Proof.Machine

/-- The rank indices of a mask below a bound, from the highest down. -/
def indicesBelow (m : Mask) (bound : Nat) : List Nat := (List.range bound).reverse.filter fun j => m.getLsbD j

theorem indicesDown_eq_indicesBelow (m : Mask) : indicesDown m = indicesBelow m 14 := rfl

theorem indicesBelow_succ (m : Mask) (b : Nat) :
    indicesBelow m (b + 1) = if m.getLsbD b then b :: indicesBelow m b else indicesBelow m b := by
  rw [indicesBelow, List.range_succ, List.reverse_concat, List.filter_cons]
  rfl

/-- A list of indices below a bound comes before every list that begins with the bound. -/
theorem indicesBelow_lt_cons (m : Mask) (b : Nat) (rest : List Nat) : indicesBelow m b < b :: rest := by
  cases h : indicesBelow m b with
  | nil => exact List.nil_lt_cons b rest
  | cons first others =>
    have hmem : first ∈ indicesBelow m b := by rw [h]; exact List.mem_cons_self
    have hfirst : first < b := List.mem_range.mp (List.mem_reverse.mp (List.mem_filter.mp hmem).1)
    exact List.cons_lt_cons_iff.mpr (.inl hfirst)

/-- The part of a mask below a bound is a number that gains the bound's power of two with the bound's rank. -/
theorem toNat_mod_succ (m : Mask) (b : Nat) :
    m.toNat % 2 ^ (b + 1) = m.toNat % 2 ^ b + 2 ^ b * (m.getLsbD b).toNat := by
  rw [Nat.mod_pow_succ, ← Nat.toNat_testBit, BitVec.testBit_toNat]

theorem indicesBelow_lt_of_mod_lt {x y : Mask} {b : Nat} (h : x.toNat % 2 ^ b < y.toNat % 2 ^ b) :
    indicesBelow x b < indicesBelow y b := by
  induction b with
  | zero => rw [pow_zero, Nat.mod_one, Nat.mod_one] at h; exact absurd h (lt_irrefl 0)
  | succ b ih =>
    have hlow : y.toNat % 2 ^ b < 2 ^ b := Nat.mod_lt _ (Nat.two_pow_pos b)
    rw [toNat_mod_succ, toNat_mod_succ] at h
    rw [indicesBelow_succ, indicesBelow_succ]
    cases hbx : x.getLsbD b <;> cases hby : y.getLsbD b <;>
      simp only [hbx, hby, Bool.toNat_true, Bool.toNat_false, if_true, Bool.false_eq_true, if_false] at h ⊢
    case false.false => exact ih (by omega)
    case false.true => exact indicesBelow_lt_cons x b _
    case true.false => omega
    case true.true => exact List.cons_lt_cons_iff.mpr (.inr ⟨rfl, ih (by omega)⟩)

theorem indicesDown_lt {x y : Mask} (h : x < y) : indicesDown x < indicesDown y := by
  rw [indicesDown_eq_indicesBelow, indicesDown_eq_indicesBelow]
  apply indicesBelow_lt_of_mod_lt
  rwa [Nat.mod_eq_of_lt x.isLt, Nat.mod_eq_of_lt y.isLt]

theorem indicesDown_strictMono : StrictMono fun n : Fin (2 ^ 14) => indicesDown (BitVec.ofFin n) :=
  fun _ _ => indicesDown_lt

/-- Settles O52: the list of ranks rises strictly with the mask, so it has the masks' order and tells them apart, whether
their sizes are equal or not. -/
theorem maskOrderIsRankOrder : Obligations.MaskOrderIsRankOrder := by
  intro a b _
  refine ⟨(indicesDown_strictMono.lt_iff_lt (a := a.toFin) (b := b.toFin)).symm, ?_⟩
  exact BitVec.toFin_inj.symm.trans indicesDown_strictMono.injective.eq_iff.symm

end Sys2Proof.Laws
end

section
/-! SUPPORT. The category_tagger's two functions on their own (43_category_tagger.md R170 to R172): the tag is one
bit above every payload, so it joins a payload by addition, and in a comparison of values it decides first. -/

namespace Sys2Proof.Laws

open Sys2Proof.Machine

/-! The tag (R170) -/

theorem tagNet_of_gt {cat : Nibble} (h : 8 < cat.toNat) : tagNet cat = Config.freeTag cat :=
  if_neg (not_le.mpr h)

theorem getLsbD_tagOf_iff (cat : Nibble) (j : Nat) : (tagOf cat).getLsbD j = true ↔ j = 32 + cat.toNat := by
  rw [getLsbD_tagOf, decide_eq_true_eq]

/-- The tags of the nine categories stand within bits 40..32 (R66). -/
theorem tagOf_zero_bits {cat : Nibble} (h : cat.toNat ≤ 8) : tagOf cat &&& 0xFFFF_FE00_FFFF_FFFF = 0 := by
  have hmask : ∀ i < 64, (0xFFFF_FE00_FFFF_FFFF : Word).getLsbD i = true → i < 32 ∨ 41 ≤ i := by decide
  apply beq_iff_eq.mp
  apply and_beq_zero_of_bits
  intro i hi hset
  have hplace := hmask i hi hset
  rw [getLsbD_tagOf, decide_eq_false (by omega)]

theorem tagOf_lt_tagOf {cat stronger : Nibble} (h : cat < stronger) : tagOf cat < tagOf stronger := by
  rw [BitVec.lt_def, toNat_tagOf, toNat_tagOf]
  exact Nat.pow_lt_pow_right Nat.one_lt_two (Nat.add_lt_add_left h 32)

theorem payloadOf_lt_tagOf (cat : Nibble) (p k : Mask) : (payloadOf p k).setWidth 64 < tagOf cat := by
  rw [BitVec.lt_def, toNat_tagOf, BitVec.toNat_setWidth_of_le (by decide)]
  calc (payloadOf p k).toNat < 2 ^ 32 := (payloadOf p k).isLt
    _ ≤ 2 ^ (32 + cat.toNat) := Nat.pow_le_pow_right Nat.zero_lt_two (Nat.le_add_right 32 _)

theorem exec_ctTag (cat : Nibble) (s : State) :
    exec (.ctTag cat) s = .next (s.setValues { s.values with tag := tagNet cat }) := rfl

/-- Settles O53: for a category code the tag written is `tagOf`, a power of two that rises with the code. -/
theorem ctTagIsOneHotAndRising : Obligations.CtTagIsOneHotAndRising := by
  intro cat s
  refine ⟨_, exec_ctTag cat s, rfl, fun h => ?_, tagNet_of_gt⟩
  simp only [State.setValues_values, tagNet_of_le cat h]
  refine ⟨getLsbD_tagOf_iff cat, tagOf_zero_bits h, fun stronger hlt hle => ?_, payloadOf_lt_tagOf cat⟩
  refine ⟨_, exec_ctTag stronger s, ?_⟩
  simp only [State.setValues_values, tagNet_of_le stronger hle]
  exact tagOf_lt_tagOf hlt

/-! The composed value (R171) -/

theorem composeNet_of_gt {cat : Nibble} (p k : Mask) (h : 8 < cat.toNat) :
    composeNet cat p k = Config.freeTag cat ||| (payloadOf p k).setWidth 64 := by
  rw [composeNet, tagNet_of_gt h]

theorem tagOf_and_payloadOf_eq_zero (cat : Nibble) (p k : Mask) : tagOf cat &&& (payloadOf p k).setWidth 64 = 0 := by
  apply beq_iff_eq.mp
  apply and_beq_zero_of_bits
  intro i _ hset
  have hlow : i < 32 := by
    rw [BitVec.getLsbD_setWidth, Bool.and_eq_true] at hset
    exact BitVec.lt_of_getLsbD hset.2
  rw [getLsbD_tagOf, decide_eq_false (by omega)]

theorem valueOf_eq_add (cat : Nibble) (p k : Mask) : valueOf cat p k = tagOf cat + (payloadOf p k).setWidth 64 :=
  (BitVec.add_eq_or_of_and_eq_zero _ _ (tagOf_and_payloadOf_eq_zero cat p k)).symm

/-- Masks with bit 0 set fit the layout of R65 too: the bits outside the three fields stay clear. -/
theorem valueOf_clear_outside_fields {cat : Nibble} (p k : Mask) (h : cat.toNat ≤ 8) :
    valueOf cat p k &&& 0xFFFF_FE00_C000_C000 = 0 := by
  have hmask : ∀ i < 64, (0xFFFF_FE00_C000_C000 : Word).getLsbD i = true →
      41 ≤ i ∨ i < 32 ∧ (0xC000_C000 : BitVec 32).getLsbD i = true := by decide
  apply beq_iff_eq.mp
  apply and_beq_zero_of_bits
  intro i hi hset
  obtain htag | ⟨hlow, hgap⟩ := hmask i hi hset
  · rw [getLsbD_valueOf_high cat p k (by omega), decide_eq_false (by omega)]
  · have hclear : (payloadOf p k &&& 0xC000_C000).getLsbD i = false := by
      rw [beq_iff_eq.mp (payloadForm_payloadOf p k)]
      exact BitVec.getLsbD_zero
    rwa [BitVec.getLsbD_and, hgap, Bool.and_true, getLsbD_payloadOf p k hlow,
      ← getLsbD_valueOf_low cat p k hlow] at hclear

theorem popcount_tagField_valueOf {cat : Nibble} (p k : Mask) (h : cat.toNat ≤ 8) :
    popcount ((valueOf cat p k).extractLsb' 32 9) = 1 := by
  rw [tagField_valueOf, popcount_twoPow (by omega)]

theorem exec_ctCompose (cat : Nibble) (p k : Mask) (s : State) :
    exec (.ctCompose cat p k) s = .next (s.setValues { s.values with value := composeNet cat p k }) := rfl

/-- Settles O54: for a category code the value written is `valueOf`, from which the three fields are read back. -/
theorem ctComposeJoinsTagAndPayload : Obligations.CtComposeJoinsTagAndPayload := by
  intro cat p k s
  refine ⟨_, exec_ctCompose cat p k s, rfl, fun h => ?_, composeNet_of_gt p k⟩
  simp only [State.setValues_values, composeNet_of_le cat p k h]
  exact ⟨primaryOf_valueOf cat p k, kickersOf_valueOf cat p k, categoryCodeOf_valueOf cat p k,
    valueOf_clear_outside_fields p k h, popcount_tagField_valueOf p k h, valueOf_eq_add cat p k⟩

/-! The order of values (R172) -/

/-- A category's band ends where the next one's begins. -/
theorem valueOf_lt_of_code_lt {c1 c2 : Nibble} (p1 k1 p2 k2 : Mask) (h : c2 < c1) :
    valueOf c2 p2 k2 < valueOf c1 p1 k1 := by
  have hcode : c2.toNat < c1.toNat := h
  rw [BitVec.lt_def]
  calc (valueOf c2 p2 k2).toNat < 2 ^ (32 + c2.toNat + 1) := (valueOf_band c2 p2 k2).2
    _ ≤ 2 ^ (32 + c1.toNat) := Nat.pow_le_pow_right Nat.zero_lt_two (by omega)
    _ ≤ (valueOf c1 p1 k1).toNat := (valueOf_band c1 p1 k1).1

/-- Under one tag `P` weighs more than any `K`, which stays below the weight of `P`'s lowest bit. -/
theorem valueOf_lt_iff (cat : Nibble) (p1 k1 p2 k2 : Mask) :
    valueOf cat p2 k2 < valueOf cat p1 k1 ↔ p2 < p1 ∨ p2 = p1 ∧ k2 < k1 := by
  have hk1 := k1.isLt
  have hk2 := k2.isLt
  rw [BitVec.lt_def, BitVec.lt_def, BitVec.lt_def, ← BitVec.toNat_inj, toNat_valueOf, toNat_valueOf]
  omega

theorem valueOf_inj (cat : Nibble) (p1 k1 p2 k2 : Mask) :
    valueOf cat p1 k1 = valueOf cat p2 k2 ↔ p1 = p2 ∧ k1 = k2 := by
  constructor
  · intro h
    exact ⟨by simpa only [primaryOf_valueOf] using congrArg primaryOf h,
      by simpa only [kickersOf_valueOf] using congrArg kickersOf h⟩
  · rintro ⟨rfl, rfl⟩
    rfl

/-- Settles O55: the bands of two categories are disjoint and rise, and within one the value is `P` above `K`. -/
theorem categoryDecidesThenPayload : Obligations.CategoryDecidesThenPayload := by
  intro c1 c2 p1 k1 p2 k2
  refine ⟨valueOf_lt_of_code_lt p1 k1 p2 k2, ?_⟩
  rintro rfl
  exact ⟨valueOf_lt_iff c1 p1 k1 p2 k2, valueOf_inj c1 p1 k1 p2 k2⟩

end Sys2Proof.Laws
end

section
/-! SUPPORT. One EVALUATE of the settled combinational block by class of input (44_poker_hand_classifier.md R190 to R204,
R207): which category rule supplies the value, the sentinel, and the value nothing constrains. -/

namespace Sys2Proof.Laws

open Sys2Proof.Machine

/-! The rules as a list (R193 to R202) -/

/-- The suits that hold five cards, in the order in which R194 looks for one. -/
def flushSuits (lc : PerSuit Nibble) : List Suit := (List.finRange 4).filter fun s => decide (5 ≤ (lc.get s).toNat)

theorem flushSuit_eq_head? (lc : PerSuit Nibble) : flushSuit lc = (flushSuits lc).head? :=
  List.head?_filter.symm

theorem flushSuits_eq_nil_of_lt {lc : PerSuit Nibble} (h : ∀ q : Suit, (lc.get q).toNat < 5) : flushSuits lc = [] := by
  simpa [flushSuits] using h

/-- A rule behind the five-rank gate fires alone. -/
theorem categoryRules_of_selectFiveRanks {m : MatcherNets} {sel : Selection} (h5 : 5 ≤ m.n.toNat)
    (h : selectFiveRanks m = some sel) : (categoryRules m).filter (fun r => r.1) = [(true, sel)] := by
  by_cases hsf : m.sfm = 0#14
  · cases hfl : flushSuits m.lc with
    | cons q rest =>
      have hrule : selectFiveRanks m = some ⟨.flush, topk (m.r.get q) 5, 0⟩ := by
        simp [selectFiveRanks, flushSuit_eq_head?, hsf, hfl]
      cases hrule.symm.trans h
      rw [flushSuits] at hfl
      simp only [categoryRules, hfl]
      simp [h5, hsf]
    | nil =>
      have hrule : selectFiveRanks m = if m.stm ≠ 0 then some ⟨.straight, hibit m.stm, 0⟩ else none := by
        simp [selectFiveRanks, flushSuit_eq_head?, hsf, hfl]
      by_cases hst : m.stm = 0#14
      · cases (hrule.trans (if_neg (not_not.mpr hst))).symm.trans h
      · cases (hrule.trans (if_pos hst)).symm.trans h
        rw [flushSuits] at hfl
        simp only [categoryRules, hfl]
        simp [h5, hsf, hst]
  · have hrule : selectFiveRanks m = some ⟨.straightFlush, hibit m.sfm, 0⟩ := if_pos hsf
    cases hrule.symm.trans h
    simp [categoryRules, h5, hsf]

theorem beq_zero_eq_popcount (m : Mask) : (m == 0) = (popcount m == 0) := by
  rw [Bool.eq_iff_iff, beq_iff_eq, beq_iff_eq, popcount_eq_zero_iff]

/-- Where no rule behind the gate fires, a rule by counts fires alone. -/
theorem categoryRules_of_selectByCounts {m : MatcherNets} (h : 5 ≤ m.n.toNat → selectFiveRanks m = none) :
    (categoryRules m).filter (fun r => r.1) = [(true, selectByCounts m)] := by
  have hsilent : (decide (5 ≤ m.n.toNat) && m.sfm != 0) = false ∧
      (decide (5 ≤ m.n.toNat) && m.sfm == 0 && !(flushSuits m.lc).isEmpty) = false ∧
      (decide (5 ≤ m.n.toNat) && m.sfm == 0 && (flushSuits m.lc).isEmpty && m.stm != 0) = false := by
    by_cases h5 : 5 ≤ m.n.toNat
    · obtain ⟨-, hrule⟩ | ⟨-, q, -, hrule⟩ | ⟨-, -, -, hrule⟩ | ⟨hsf, hfew, hst, -⟩ := selectFiveRanks_cases m
      case inr.inr.inr => simp [hsf, hst, flushSuits_eq_nil_of_lt hfew]
      all_goals cases hrule.symm.trans (h h5)
    · simp [h5]
  obtain ⟨hsf, hfl, hst⟩ := hsilent
  rw [flushSuits] at hfl hst
  simp only [categoryRules, hsf, hfl, hst]
  simp only [bne, beq_zero_eq_popcount]
  have hquads := popcount_eq_zero_iff m.quads
  have hpairs := popcount_eq_zero_iff m.pairs
  obtain ⟨hq, hsel⟩ | ⟨hq, ht, hsel⟩ | ⟨hq, ht, hp, hsel⟩ | ⟨hq, ht, hp, hsel⟩ | ⟨hq, ht, hp, hsel⟩ | ⟨hq, ht, hp, hsel⟩ |
    ⟨hq, ht, hp, hsel⟩ := selectByCounts_cases m
  all_goals rw [hsel]
  · simp [mt hquads.mp hq]
  · simp [hq, ht, show popcount m.trips ≠ 0 by omega, show popcount m.trips ≠ 1 by omega]
  · simp [hq, ht, mt hpairs.mp hp]
  · simp [hq, ht, hp]
  · simp [hq, ht, hp, show popcount m.pairs ≠ 0 by omega, show popcount m.pairs ≠ 1 by omega]
  · simp [hq, ht, hp]
  · simp [hq, ht, hp]

theorem categoryRules_fire_once (m : MatcherNets) :
    (categoryRules m).filter (fun r => r.1) = [(true, select m)] := by
  obtain ⟨h5, hsel⟩ | ⟨hnone, hsel⟩ := select_cases m
  · exact categoryRules_of_selectFiveRanks h5 hsel
  · rw [hsel]
    exact categoryRules_of_selectByCounts hnone

/-- Settles O14: the rule that fires is the one the chain selects. -/
theorem exactlyOneCategoryRuleSuppliesTheValue : Obligations.ExactlyOneCategoryRuleSuppliesTheValue := by
  intro hand hs
  exact ⟨select (matcherNets hand), categoryRules_fire_once _, classify_of_not_sentinel hand hs⟩

/-! The value by class of input -/

/-- Settles O15: the block shows the hand's value, which in contract is CLASSIFY. -/
theorem evaluateInContractGivesClassify : Obligations.EvaluateInContractGivesClassify := by
  intro s hand hst hset hw
  have hvalue : (showValue hand s).valueO = classify hand := evaluateWord_of_wellFormed hw
  obtain ⟨sel, hrule, hsel⟩ := exactlyOneCategoryRuleSuppliesTheValue hand (sentinelCondition_of_wellFormed hw)
  refine ⟨showValue hand s, exec_evaluate_of_settled hand hst hset, hvalue, ⟨sel, hrule, hvalue.trans hsel⟩, ?_⟩
  rw [← hvalue]
  rfl

/-- The sentinel's condition, counted on the hand's bits. -/
theorem sentinelCondition_of_rank_count {hand : Word}
    (h : (List.range 13).countP (fun j => (List.finRange 4).any fun q => hand.getLsbD (16 * q.val + (j + 1))) < 2 ∨
      7 < (List.range 13).countP (fun j => (List.finRange 4).any fun q => hand.getLsbD (16 * q.val + (j + 1)))) :
    sentinelCondition (matcherNets hand).n = true := by
  have hn : (matcherNets hand).n.toNat = popcount (presentRanks (straightLanes hand)) := countNet_toNat _
  rw [← popcount_presentRanks, ← hn] at h
  rw [sentinelCondition_iff]
  omega

/-- Settles O16: the condition is that of CLASSIFY's first test, which no well-formed hand meets, and both the port and the
first stage take the hand's value. -/
theorem evaluateSentinelPath : Obligations.EvaluateSentinelPath := by
  intro s hand hcount
  have hs := sentinelCondition_of_rank_count hcount
  refine ⟨not_wellFormed_of_sentinelCondition hs, classify_of_sentinel hs, fun other hw => ?_, _, exec_evaluate hand s,
    fun hst hset => ?_, fun hne hrst => ?_⟩
  · obtain ⟨-, -, hbelow, -⟩ := valueFormatOfWellFormedHands other hw
    exact hbelow
  · have hshown := (exec_evaluate hand s).symm.trans (exec_evaluate_of_settled hand hst hset)
    rw [Host.Outcome.next.inj hshown]
    exact evaluateWord_of_sentinel hs
  · rw [evaluate_stages_of_not_rst hand hrst, List.head?_eq_getElem?, shiftStages_head _ _ hne,
      evaluateWord_of_sentinel hs, sentinel]

theorem evaluateWord_of_unspecified {hand : Word} (hw : wellFormedHand hand = false)
    (hs : sentinelCondition (matcherNets hand).n = false) : evaluateWord hand = Config.outOfContractValue hand := by
  obtain ⟨h, -⟩ | ⟨-, h, -⟩ | ⟨-, -, -, hvalue⟩ := evaluateWord_cases hand
  · cases hs.symm.trans h
  · cases hw.symm.trans h
  · exact hvalue

/-- Settles O17: the block shows the hand's value, which in this class is the free one. -/
theorem evaluateOutOfContractIsFree : Obligations.EvaluateOutOfContractIsFree := by
  intro s hand hst hset hw hs
  exact ⟨showValue hand s, exec_evaluate_of_settled hand hst hset, evaluateWord_of_unspecified hw hs, rfl, rfl⟩

/-- Settles O29: what the block shows and drives is written from the hand. -/
theorem valueDependsOnTheHandAlone : Obligations.ValueDependsOnTheHandAlone := by
  intro s1 s2 hand hst1 hst2 hset1 hset2
  exact ⟨showValue hand s1, showValue hand s2, exec_evaluate_of_settled hand hst1 hset1,
    exec_evaluate_of_settled hand hst2 hset2, rfl, rfl, rfl⟩

end Sys2Proof.Laws
end

section
/-! SUPPORT. The structural facts of a hand (44_poker_hand_classifier.md R192, R209): a straight takes five ranks where no ace
duplicate stands without its Ace, a flush five ranks always, and the tally bounds the ranks of hands with quads or trips. -/

namespace Sys2Proof.Laws

open Sys2Proof.Machine

/-! The ranks of a straight -/

/-- The five ranks of the straight whose high card is rank index `j`: the wheel's lowest is the Ace. -/
def straightRanks (j : Nat) : Mask := if j = 4 then 0x201E else (0x1F : Mask) <<< (j - 4)

theorem getLsbD_straightRanks {j i : Nat} (hlo : 4 ≤ j) (hhi : j ≤ 13) :
    (straightRanks j).getLsbD i = true ↔ 1 ≤ i ∧ j - 4 ≤ i ∧ i ≤ j ∨ j = 4 ∧ i = 13 := by
  have hall : ∀ j ≤ 13, 4 ≤ j → ∀ i < 14, (straightRanks j).getLsbD i = true ↔
      1 ≤ i ∧ j - 4 ≤ i ∧ i ≤ j ∨ j = 4 ∧ i = 13 := by decide
  by_cases hi : i < 14
  · exact hall j hhi hlo i hi
  · rw [BitVec.getLsbD_of_ge _ i (by omega)]
    simp only [Bool.false_eq_true, false_iff]
    omega

theorem popcount_straightRanks {j : Nat} (hlo : 4 ≤ j) (hhi : j ≤ 13) : popcount (straightRanks j) = 5 := by
  have hall : ∀ j ≤ 13, 4 ≤ j → popcount (straightRanks j) = 5 := by decide
  exact hall j hhi hlo

/-- A straight is five real ranks, if the ace duplicate does not stand without its Ace. -/
theorem straightRanks_subMask {w : Mask} {j : Nat} (hace : w.getLsbD 0 = true → w.getLsbD 13 = true)
    (h : (straightMask w).getLsbD j = true) : SubMask (straightRanks j) (w &&& laneRanks) := by
  obtain ⟨hlo, hhi, hrun⟩ := (getLsbD_straightMask_iff w j).mp h
  intro i hi
  rw [BitVec.getLsbD_and, getLsbD_laneRanks]
  obtain ⟨h1, hfrom, hto⟩ | ⟨rfl, rfl⟩ := (getLsbD_straightRanks hlo hhi).mp hi
  · have hbit := hrun (j - i) (by omega)
    rw [Nat.sub_sub_self hto] at hbit
    rw [hbit, decide_eq_true h1, decide_eq_true (by omega)]
    rfl
  · rw [hace (hrun 4 le_rfl)]
    rfl

theorem straightMask_mono {x m : Mask} (h : SubMask x m) : SubMask (straightMask x) (straightMask m) := by
  intro j hj
  rw [getLsbD_straightMask_iff] at hj ⊢
  obtain ⟨hlo, hhi, hrun⟩ := hj
  exact ⟨hlo, hhi, fun d hd => h _ (hrun d hd)⟩

theorem lane_subMask_orLanes (w : PerSuit Mask) (q : Suit) : SubMask (w.get q) (orLanes w) :=
  fun j hj => (getLsbD_orLanes w j).mpr ⟨q, hj⟩

/-- A straight flush is a straight. -/
theorem sfm_subMask_stm (hand : Word) : SubMask (matcherNets hand).sfm (matcherNets hand).stm := by
  intro j hj
  obtain ⟨q, hq⟩ := (getLsbD_orLanes _ j).mp hj
  rw [perSuit_get_map] at hq
  exact straightMask_mono (lane_subMask_orLanes _ q) j hq

theorem subMask_zero_iff (x : Mask) : SubMask x 0 ↔ x = 0 := by
  constructor
  · intro h
    exact h.eq_of_popcount_le (by simp)
  · rintro rfl
    exact subMask_refl 0

/-! The five-rank gate (R192) -/

/-- No lane has its ace duplicate set without its Ace. -/
def NoStrayDuplicate (hand : Word) : Prop :=
  ∀ q : Suit, hand.getLsbD (16 * q.val) = true → hand.getLsbD (16 * q.val + 13) = true

theorem noStrayDuplicate_of_wellFormed {hand : Word} (h : wellFormedHand hand = true) : NoStrayDuplicate hand :=
  fun q hdup => ((acesAgree_iff hand).mp (acesAgree_of_wellFormed h) q).symm.trans hdup

theorem distinctRanks_eq_popcount (hand : Word) :
    (matcherNets hand).n.toNat = popcount (matcherNets hand).present := countNet_toNat _

theorem suitCount_eq_popcount (hand : Word) (q : Suit) :
    ((matcherNets hand).lc.get q).toNat = popcount ((rankLanes hand).get q) := by
  simp [matcherNets, countNet_toNat]

theorem or14_ace_of_noStrayDuplicate {hand : Word} (h : NoStrayDuplicate hand)
    (hdup : (matcherNets hand).or14.getLsbD 0 = true) : (matcherNets hand).or14.getLsbD 13 = true := by
  obtain ⟨q, hq⟩ := (getLsbD_orLanes _ 0).mp hdup
  refine (getLsbD_orLanes _ 13).mpr ⟨q, ?_⟩
  rw [getLsbD_straightLanes] at hq ⊢
  exact h q hq

/-- A hand's straight is five of its distinct ranks. -/
theorem straightRanks_subMask_present {hand : Word} (hstray : NoStrayDuplicate hand) {j : Nat}
    (h : (matcherNets hand).stm.getLsbD j = true) : SubMask (straightRanks j) (matcherNets hand).present :=
  straightRanks_subMask (or14_ace_of_noStrayDuplicate hstray) h

theorem stm_eq_zero_of_few_ranks {hand : Word} (hstray : NoStrayDuplicate hand) (hn : (matcherNets hand).n.toNat ≤ 4) :
    (matcherNets hand).stm = 0 := by
  by_contra hne
  obtain ⟨j, -, hj⟩ := exists_hibit_eq_twoPow hne
  obtain ⟨hlo, hhi, -⟩ := (getLsbD_straightMask_iff _ j).mp hj
  have hfive := popcount_mono (straightRanks_subMask_present hstray hj)
  rw [popcount_straightRanks hlo hhi, ← distinctRanks_eq_popcount] at hfive
  omega

theorem sfm_eq_zero_of_stm_eq_zero {hand : Word} (h : (matcherNets hand).stm = 0) : (matcherNets hand).sfm = 0 :=
  (subMask_zero_iff _).mp (h ▸ sfm_subMask_stm hand)

/-- A suit's ranks are among the distinct ranks. -/
theorem rankLane_subMask_present (hand : Word) (q : Suit) :
    SubMask ((rankLanes hand).get q) (matcherNets hand).present := by
  intro j hj
  refine (getLsbD_presentRanks hand j).trans (decide_eq_true ?_)
  exact (rankCount_pos_iff _ j).mpr ⟨q, hj⟩

theorem suitCount_le_distinctRanks (hand : Word) (q : Suit) :
    ((matcherNets hand).lc.get q).toNat ≤ (matcherNets hand).n.toNat := by
  rw [suitCount_eq_popcount, distinctRanks_eq_popcount]
  exact popcount_mono (rankLane_subMask_present hand q)

/-- With four distinct ranks or fewer no rule behind the gate could fire anyway. -/
theorem selectFiveRanks_of_few_ranks {hand : Word} (hstray : NoStrayDuplicate hand)
    (hn : (matcherNets hand).n.toNat ≤ 4) : selectFiveRanks (matcherNets hand) = none := by
  have hstm := stm_eq_zero_of_few_ranks hstray hn
  obtain ⟨hsf, -⟩ | ⟨-, q, hq, -⟩ | ⟨-, -, hst, -⟩ | ⟨-, -, -, hnone⟩ := selectFiveRanks_cases (matcherNets hand)
  · exact absurd (sfm_eq_zero_of_stm_eq_zero hstm) hsf
  · have := suitCount_le_distinctRanks hand q
    omega
  · exact absurd hstm hst
  · exact hnone

theorem select_of_few_ranks {m : MatcherNets} (hn : m.n.toNat ≤ 4) : select m = selectByCounts m :=
  if_neg (by omega)

theorem select_of_five_ranks {m : MatcherNets} (hn : 5 ≤ m.n.toNat) :
    select m = (selectFiveRanks m).getD (selectByCounts m) :=
  if_pos hn

theorem select_eq_ungated {hand : Word} (hstray : NoStrayDuplicate hand) :
    select (matcherNets hand) = (selectFiveRanks (matcherNets hand)).getD (selectByCounts (matcherNets hand)) := by
  by_cases hn : (matcherNets hand).n.toNat ≤ 4
  · rw [select_of_few_ranks hn, selectFiveRanks_of_few_ranks hstray hn]
    rfl
  · exact select_of_five_ranks (by omega)

theorem classify_of_rank_range {hand : Word} (hlo : 2 ≤ (matcherNets hand).n.toNat) (hhi : (matcherNets hand).n.toNat ≤ 7) :
    classify hand = (select (matcherNets hand)).value := by
  apply classify_of_not_sentinel
  rw [← Bool.not_eq_true, sentinelCondition_iff, not_not]
  exact ⟨hlo, hhi⟩

/-- What R192 and R209 say of a well-formed hand of four ranks or fewer. -/
theorem gated_nets_of_few_ranks {hand : Word} (hw : wellFormedHand hand = true) (hn : (matcherNets hand).n.toNat ≤ 4) :
    (matcherNets hand).sfm = 0 ∧ (matcherNets hand).stm = 0 ∧ ∀ q : Suit, ((matcherNets hand).lc.get q).toNat < 5 := by
  have hstm := stm_eq_zero_of_few_ranks (noStrayDuplicate_of_wellFormed hw) hn
  exact ⟨sfm_eq_zero_of_stm_eq_zero hstm, hstm, fun q => by have := suitCount_le_distinctRanks hand q; omega⟩

/-- Settles O21: below the gate's five ranks the rules behind it have nothing to fire on, unless a stray duplicate makes a
straight of four. -/
theorem fiveRankGateIsHarmlessInContract : Obligations.FiveRankGateIsHarmlessInContract := by
  refine ⟨fun hand h2 h4 => ?_, fun hand h5 h7 => ?_, fun hand h2 h7 hstray => ?_, fun hand hw => ⟨?_, fun hn => ?_⟩,
    fun hand q hq => hq.trans (suitCount_le_distinctRanks hand q), ?_, ?_⟩
  · rw [classify_of_rank_range h2 (by omega), select_of_few_ranks h4]
  · rw [classify_of_rank_range (by omega) h7, select_of_five_ranks h5]
  · rw [classify_of_rank_range h2 h7, select_eq_ungated hstray]
  · rw [classify_of_wellFormed hw, select_eq_ungated (noStrayDuplicate_of_wellFormed hw)]
  · obtain ⟨hsf, hst, hfew⟩ := gated_nets_of_few_ranks hw hn
    exact ⟨hsf, hst, fun q => not_le.mpr (hfew q)⟩
  · decide
  · decide

/-- Settles O22: the tally counts the cards of quads, trips and pairs against seven. -/
theorem structuralFactsOfWellFormedHands : Obligations.StructuralFactsOfWellFormedHands := by
  intro hand hw
  have hrange := distinctRanks_of_wellFormed hw
  have hcards := cardCount_of_wellFormed hw
  have hranks := distinctRanks_eq_tally hand
  have htally := cardCount_eq_tally hand
  have hquads := popcount_pos_iff (matcherNets hand).quads
  have hpairs := popcount_pos_iff (matcherNets hand).pairs
  refine ⟨by omega, fun hq => ?_, fun ht hp => ?_, fun ht => by omega, gated_nets_of_few_ranks hw⟩
  · have := hquads.mpr hq
    omega
  · have := hpairs.mpr hp
    omega

end Sys2Proof.Laws
end

section
/-! SUPPORT. What a hand can make (44_poker_hand_classifier.md R190 to R202, R209): the ranks it holds at least a number of
times, the categories whose test it meets, and that CLASSIFY's category is the strongest of them. -/

namespace Sys2Proof.Laws

open Sys2Proof.Machine

/-! The ranks held at least a number of times -/

/-- The ranks of which the hand has at least `c` cards. -/
def heldAtLeast (hand : Word) (c : Nat) : Mask :=
  BitVec.ofFnLE fun j : Fin 14 => decide (c ≤ rankCount (rankLanes hand) j.val)

theorem rankCount_of_ge (r : PerSuit Mask) {j : Nat} (hj : 14 ≤ j) : rankCount r j = 0 := by
  simp [rankCount, BitVec.getLsbD_of_ge _ j hj]

theorem getLsbD_heldAtLeast (hand : Word) {c : Nat} (hc : 1 ≤ c) (j : Nat) :
    (heldAtLeast hand c).getLsbD j = true ↔ c ≤ rankCount (rankLanes hand) j := by
  by_cases hj : j < 14
  · simp [heldAtLeast, hj]
  · rw [BitVec.getLsbD_of_ge _ j (by omega), rankCount_of_ge _ (by omega)]
    simp only [Bool.false_eq_true, false_iff]
    omega

theorem heldAtLeast_subMask (hand : Word) {c c' : Nat} (hc : 1 ≤ c) (h : c ≤ c') :
    SubMask (heldAtLeast hand c') (heldAtLeast hand c) := by
  intro j hj
  rw [getLsbD_heldAtLeast hand (by omega)] at hj ⊢
  omega

theorem present_eq_heldAtLeast (hand : Word) : (matcherNets hand).present = heldAtLeast hand 1 := by
  apply BitVec.eq_of_getLsbD_eq
  intro j _
  have hpresent : (matcherNets hand).present.getLsbD j = decide (1 ≤ rankCount (rankLanes hand) j) :=
    getLsbD_presentRanks hand j
  rw [Bool.eq_iff_iff, getLsbD_heldAtLeast hand le_rfl, hpresent, decide_eq_true_eq]

theorem quads_eq_heldAtLeast (hand : Word) : (matcherNets hand).quads = heldAtLeast hand 4 := by
  apply BitVec.eq_of_getLsbD_eq
  intro j _
  have hle := rankCount_le_four (rankLanes hand) j
  have hquads : (matcherNets hand).quads.getLsbD j = (rankCount (rankLanes hand) j == 4) := getLsbD_quadRanks_eq _ j
  rw [Bool.eq_iff_iff, getLsbD_heldAtLeast hand (by decide), hquads, beq_iff_eq]
  omega

/-- A rank held exactly `c` times is held at least `c` times, and not once more. -/
theorem ranksHeld_eq_diff (hand : Word) {c : Nat} (hc : 1 ≤ c) :
    ranksHeld (rankLanes hand) c = heldAtLeast hand c &&& ~~~heldAtLeast hand (c + 1) := by
  apply BitVec.eq_of_getLsbD_eq
  intro j hj
  rw [getLsbD_ranksHeld_rankLanes hand hc hj, Bool.eq_iff_iff, beq_iff_eq, BitVec.getLsbD_and, BitVec.getLsbD_not,
    decide_eq_true hj, Bool.true_and, Bool.and_eq_true, getLsbD_heldAtLeast hand hc, Bool.not_eq_true',
    ← Bool.not_eq_true, getLsbD_heldAtLeast hand (by omega)]
  omega

theorem singles_eq_diff (hand : Word) : (matcherNets hand).singles = heldAtLeast hand 1 &&& ~~~heldAtLeast hand 2 :=
  ranksHeld_eq_diff hand (by decide)

theorem pairs_eq_diff (hand : Word) : (matcherNets hand).pairs = heldAtLeast hand 2 &&& ~~~heldAtLeast hand 3 :=
  ranksHeld_eq_diff hand (by decide)

theorem trips_eq_diff (hand : Word) : (matcherNets hand).trips = heldAtLeast hand 3 &&& ~~~heldAtLeast hand 4 :=
  ranksHeld_eq_diff hand (by decide)

/-- The numbers of ranks held at least one to four times, by the tally. -/
theorem popcount_heldAtLeast (hand : Word) :
    popcount (heldAtLeast hand 4) = popcount (matcherNets hand).quads ∧
    popcount (heldAtLeast hand 3) = popcount (matcherNets hand).trips + popcount (heldAtLeast hand 4) ∧
    popcount (heldAtLeast hand 2) = popcount (matcherNets hand).pairs + popcount (heldAtLeast hand 3) ∧
    popcount (heldAtLeast hand 1) = popcount (matcherNets hand).singles + popcount (heldAtLeast hand 2) := by
  rw [quads_eq_heldAtLeast, trips_eq_diff, pairs_eq_diff, singles_eq_diff]
  have h1 := (heldAtLeast_subMask hand (c := 1) (c' := 2) (by decide) (by decide)).popcount_eq
  have h2 := (heldAtLeast_subMask hand (c := 2) (c' := 3) (by decide) (by decide)).popcount_eq
  have h3 := (heldAtLeast_subMask hand (c := 3) (c' := 4) (by decide) (by decide)).popcount_eq
  omega

/-! The categories whose test a hand meets -/

/-- The test of each category, on its own. -/
def Meets (hand : Word) : Category → Prop
  | .straightFlush => (matcherNets hand).sfm ≠ 0
  | .fourOfAKind => 1 ≤ popcount (heldAtLeast hand 4)
  | .fullHouse => 1 ≤ popcount (heldAtLeast hand 3) ∧ 2 ≤ popcount (heldAtLeast hand 2)
  | .flush => ∃ q : Suit, 5 ≤ popcount ((rankLanes hand).get q)
  | .straight => (matcherNets hand).stm ≠ 0
  | .threeOfAKind => 1 ≤ popcount (heldAtLeast hand 3)
  | .twoPair => 2 ≤ popcount (heldAtLeast hand 2)
  | .onePair => 1 ≤ popcount (heldAtLeast hand 2)
  | .highCard => True

/-- The categories stronger than one, from the strongest down (R66). -/
def categoriesAbove : Category → List Category
  | .straightFlush => []
  | .fourOfAKind => [.straightFlush]
  | .fullHouse => [.straightFlush, .fourOfAKind]
  | .flush => [.straightFlush, .fourOfAKind, .fullHouse]
  | .straight => [.straightFlush, .fourOfAKind, .fullHouse, .flush]
  | .threeOfAKind => [.straightFlush, .fourOfAKind, .fullHouse, .flush, .straight]
  | .twoPair => [.straightFlush, .fourOfAKind, .fullHouse, .flush, .straight, .threeOfAKind]
  | .onePair => [.straightFlush, .fourOfAKind, .fullHouse, .flush, .straight, .threeOfAKind, .twoPair]
  | .highCard => [.straightFlush, .fourOfAKind, .fullHouse, .flush, .straight, .threeOfAKind, .twoPair, .onePair]

theorem mem_categoriesAbove_iff (c d : Category) : c ∈ categoriesAbove d ↔ d.code.toNat < c.code.toNat := by
  cases c <;> cases d <;> decide

theorem code_inj_iff (c d : Category) : c.code.toNat = d.code.toNat ↔ c = d := by
  cases c <;> cases d <;> decide

/-- The strongest category whose test the hand meets. -/
structure IsStrongest (hand : Word) (d : Category) : Prop where
  meets : Meets hand d
  above : ∀ c ∈ categoriesAbove d, ¬ Meets hand c

theorem IsStrongest.code_le {hand : Word} {c d : Category} (h : IsStrongest hand d) (hc : Meets hand c) :
    c.code.toNat ≤ d.code.toNat :=
  not_lt.mp fun hlt => h.above c ((mem_categoriesAbove_iff c d).mpr hlt) hc

theorem IsStrongest.unique {hand : Word} {c d : Category} (hc : IsStrongest hand c) (hd : IsStrongest hand d) : c = d :=
  (code_inj_iff c d).mp (le_antisymm (hd.code_le hc.meets) (hc.code_le hd.meets))

/-- R190 tests flush and straight before quads and full houses, which a hand of five ranks does not hold. -/
theorem isStrongest_of_selectFiveRanks {hand : Word} {sel : Selection} (hw : wellFormedHand hand = true)
    (h5 : 5 ≤ (matcherNets hand).n.toNat) (h : selectFiveRanks (matcherNets hand) = some sel) :
    IsStrongest hand sel.cat := by
  have hcards := cardCount_of_wellFormed hw
  have hranks := distinctRanks_eq_tally hand
  have htally := cardCount_eq_tally hand
  obtain ⟨h4, h3, h2, h1⟩ := popcount_heldAtLeast hand
  have hno4 : popcount (heldAtLeast hand 4) = 0 := by omega
  have hno3 : 1 ≤ popcount (heldAtLeast hand 3) → popcount (heldAtLeast hand 2) < 2 := by omega
  obtain ⟨hsf, hsel⟩ | ⟨hsf, q, hq, hsel⟩ | ⟨hsf, hfew, hst, hsel⟩ | ⟨-, -, -, hsel⟩ := selectFiveRanks_cases (matcherNets hand)
  · cases hsel.symm.trans h
    exact ⟨hsf, by simp [categoriesAbove]⟩
  · cases hsel.symm.trans h
    refine ⟨⟨q, by rwa [← suitCount_eq_popcount]⟩, ?_⟩
    simpa [categoriesAbove, Meets, hsf, hno4] using hno3
  · cases hsel.symm.trans h
    simp only [suitCount_eq_popcount] at hfew
    refine ⟨hst, ?_⟩
    simpa [categoriesAbove, Meets, hsf, hno4, hfew] using hno3
  · cases hsel.symm.trans h

/-- Where the chain goes on to the counts there is no straight and no flush, gate or no gate. -/
theorem no_straight_or_flush {hand : Word} (hw : wellFormedHand hand = true)
    (h : 5 ≤ (matcherNets hand).n.toNat → selectFiveRanks (matcherNets hand) = none) :
    (matcherNets hand).sfm = 0 ∧ (matcherNets hand).stm = 0 ∧ ∀ q : Suit, ¬ 5 ≤ popcount ((rankLanes hand).get q) := by
  simp only [← suitCount_eq_popcount, not_le]
  by_cases hn : (matcherNets hand).n.toNat ≤ 4
  · exact gated_nets_of_few_ranks hw hn
  · have hnone := h (by omega)
    obtain ⟨-, hsel⟩ | ⟨-, q, -, hsel⟩ | ⟨-, -, -, hsel⟩ | ⟨hsf, hfew, hst, -⟩ := selectFiveRanks_cases (matcherNets hand)
    case inr.inr.inr => exact ⟨hsf, hst, hfew⟩
    all_goals cases hsel.symm.trans hnone

theorem isStrongest_of_selectByCounts {hand : Word} (hw : wellFormedHand hand = true)
    (h : 5 ≤ (matcherNets hand).n.toNat → selectFiveRanks (matcherNets hand) = none) :
    IsStrongest hand (selectByCounts (matcherNets hand)).cat := by
  obtain ⟨hsf, hst, hfew⟩ := no_straight_or_flush hw h
  obtain ⟨h4, h3, h2, h1⟩ := popcount_heldAtLeast hand
  have hquads := popcount_pos_iff (matcherNets hand).quads
  have hpairs := popcount_pos_iff (matcherNets hand).pairs
  obtain ⟨hq, hsel⟩ | ⟨hq, ht, hsel⟩ | ⟨hq, ht, hp, hsel⟩ | ⟨hq, ht, hp, hsel⟩ | ⟨hq, ht, hp, hsel⟩ | ⟨hq, ht, hp, hsel⟩ |
    ⟨hq, ht, hp, hsel⟩ := selectByCounts_cases (matcherNets hand)
  all_goals rw [hsel]
  · have := hquads.mpr hq
    exact ⟨show 1 ≤ popcount (heldAtLeast hand 4) by omega, by simp [categoriesAbove, Meets, hsf]⟩
  · refine ⟨⟨by omega, by omega⟩, ?_⟩
    simp [categoriesAbove, Meets, hsf, h4, hq]
  · have := hpairs.mpr hp
    refine ⟨⟨by omega, by omega⟩, ?_⟩
    simp [categoriesAbove, Meets, hsf, h4, hq]
  · refine ⟨show 1 ≤ popcount (heldAtLeast hand 3) by omega, ?_⟩
    simp [categoriesAbove, Meets, hsf, hst, hfew, h2, h3, h4, hq, ht, hp]
  · refine ⟨show 2 ≤ popcount (heldAtLeast hand 2) by omega, ?_⟩
    simp [categoriesAbove, Meets, hsf, hst, hfew, h3, h4, hq, ht]
  · refine ⟨show 1 ≤ popcount (heldAtLeast hand 2) by omega, ?_⟩
    simp [categoriesAbove, Meets, hsf, hst, hfew, h2, h3, h4, hq, ht, hp]
  · refine ⟨trivial, ?_⟩
    simp [categoriesAbove, Meets, hsf, hst, hfew, h2, h3, h4, hq, ht, hp]

theorem isStrongest_select {hand : Word} (hw : wellFormedHand hand = true) :
    IsStrongest hand (select (matcherNets hand)).cat := by
  obtain ⟨h5, hsel⟩ | ⟨hnone, hsel⟩ := select_cases (matcherNets hand)
  · exact isStrongest_of_selectFiveRanks hw h5 hsel
  · rw [hsel]
    exact isStrongest_of_selectByCounts hw hnone

end Sys2Proof.Laws
end

section
/-! SUPPORT. CLASSIFY takes the best a hand can make (44_poker_hand_classifier.md R193 to R202, 42_rank_encoder.md R151, R153):
the strongest category, then from its ranks the highest for `P`, and from the rest the highest for `K`. -/

namespace Sys2Proof.Laws

open Sys2Proof.Machine

/-! The highest ranks are the largest mask -/

theorem toNat_lt_of_highest_diff {x y : Mask} {j : Nat} (hx : x.getLsbD j = false) (hy : y.getLsbD j = true)
    (habove : ∀ i, j < i → x.getLsbD i = y.getLsbD i) : x < y :=
  Nat.lt_of_testBit j hx hy habove

/-- TOPK is the largest choice of that many ranks: where another choice first has a rank TOPK dropped, it already has all
that TOPK keeps. -/
theorem le_topk {x m : Mask} {k : Nat} (hsub : SubMask x m) (hsize : popcount x ≤ popcount (topk m k)) : x ≤ topk m k := by
  obtain ⟨hzero, -⟩ | ⟨j, hj14, -, hj, habove⟩ := hibit_cases (x ^^^ topk m k)
  · rw [BitVec.xor_eq_zero_iff.mp hzero]
    exact le_refl (topk m k).toNat
  · have hagree (i : Nat) (hi : j < i) : x.getLsbD i = (topk m k).getLsbD i := by
      simpa using habove i hi
    cases htop : (topk m k).getLsbD j with
    | true =>
      have hx : x.getLsbD j = false := by simpa [htop] using hj
      exact Nat.le_of_lt (toNat_lt_of_highest_diff hx htop hagree)
    | false =>
      have hx : x.getLsbD j = true := by simpa [htop] using hj
      have hpart : SubMask (topk m k) x := fun i hi => by
        rw [hagree i (lt_of_dropped_by_topk hi (hsub j hx) htop), hi]
      rw [hpart.eq_of_popcount_le hsize, hx] at htop
      cases htop

/-! What the categories are made of -/

/-- The mask `P` is taken from: for a flush the lane of its suit. -/
def primarySource (hand : Word) (q : Suit) : Category → Mask
  | .straightFlush => (matcherNets hand).sfm
  | .fourOfAKind => heldAtLeast hand 4
  | .fullHouse => heldAtLeast hand 3
  | .flush => (rankLanes hand).get q
  | .straight => (matcherNets hand).stm
  | .threeOfAKind => heldAtLeast hand 3
  | .twoPair => heldAtLeast hand 2
  | .onePair => heldAtLeast hand 2
  | .highCard => heldAtLeast hand 1

/-- The ranks `K` is taken from, `P`'s excepted. -/
def kickerSource (hand : Word) : Category → Mask
  | .fullHouse => heldAtLeast hand 2
  | _ => heldAtLeast hand 1

/-- The hand has the cards for a selection, its best or not; `q` is the suit it is taken from if it is a flush. -/
structure Makes (hand : Word) (q : Suit) (sel : Selection) : Prop where
  primary : SubMask sel.p (primarySource hand q sel.cat)
  kickers : SubMask sel.k (kickerSource hand sel.cat)
  primarySize : popcount sel.p = (fieldSizes sel.cat).1
  kickersSize : popcount sel.k = (fieldSizes sel.cat).2
  disjoint : sel.p &&& sel.k = 0

/-- The highest ranks for each field. -/
def bestOf (hand : Word) (q : Suit) (c : Category) : Selection where
  cat := c
  p := topk (primarySource hand q c) (fieldSizes c).1
  k := topk (kickerSource hand c &&& ~~~topk (primarySource hand q c) (fieldSizes c).1) (fieldSizes c).2

/-- What shares no rank with a mask is found in the rest. -/
theorem subMask_rest {x y m : Mask} (h : SubMask y m) (hdisjoint : x &&& y = 0) : SubMask y (m &&& ~~~x) := by
  intro j hy
  have hx := congrArg (fun v => v.getLsbD j) hdisjoint
  simp only [BitVec.getLsbD_and, hy, Bool.and_true, BitVec.ofNat_eq_ofNat, BitVec.getLsbD_zero] at hx
  rw [BitVec.getLsbD_and, BitVec.getLsbD_not, h j hy, decide_eq_true (BitVec.lt_of_getLsbD hy), hx]
  rfl

theorem topk_one (m : Mask) : topk m 1 = hibit m := by
  rw [topk_succ, topk_zero]
  exact BitVec.or_zero

theorem diff_zero (m : Mask) : m &&& ~~~(0 : Mask) = m := by
  rw [show ~~~(0 : Mask) = BitVec.allOnes 14 from rfl, BitVec.and_allOnes]

/-- Without a rank held exactly `c` times, what is held at least `c` times is held once more. -/
theorem heldAtLeast_succ_of_none {hand : Word} {c : Nat} (hc : 1 ≤ c) (h : popcount (ranksHeld (rankLanes hand) c) = 0) :
    heldAtLeast hand (c + 1) = heldAtLeast hand c := by
  have hsub : SubMask (heldAtLeast hand (c + 1)) (heldAtLeast hand c) := heldAtLeast_subMask hand hc (Nat.le_succ c)
  have hsplit := hsub.popcount_eq
  rw [ranksHeld_eq_diff hand hc] at h
  exact hsub.eq_of_popcount_le (by omega)

/-- The rules by counts take the highest ranks of those held so often. -/
theorem selectByCounts_eq_bestOf {hand : Word} (hw : wellFormedHand hand = true) (q : Suit) :
    selectByCounts (matcherNets hand) = bestOf hand q (selectByCounts (matcherNets hand)).cat := by
  have hcards := cardCount_of_wellFormed hw
  have htally := cardCount_eq_tally hand
  have hquads := quads_eq_heldAtLeast hand
  have htrips := trips_eq_diff hand
  have hpairs := pairs_eq_diff hand
  have hsingles := singles_eq_diff hand
  have hpresent := present_eq_heldAtLeast hand
  have hnoTrips (h : popcount (matcherNets hand).trips = 0) : heldAtLeast hand 4 = heldAtLeast hand 3 :=
    heldAtLeast_succ_of_none (by decide) h
  have hnoPairs (h : popcount (matcherNets hand).pairs = 0) : heldAtLeast hand 3 = heldAtLeast hand 2 :=
    heldAtLeast_succ_of_none (by decide) h
  obtain ⟨hq, hsel⟩ | ⟨hq, ht, hsel⟩ | ⟨hq, ht, hp, hsel⟩ | ⟨hq, ht, hp, hsel⟩ | ⟨hq, ht, hp, hsel⟩ | ⟨hq, ht, hp, hsel⟩ |
    ⟨hq, ht, hp, hsel⟩ := selectByCounts_cases (matcherNets hand)
  all_goals
    rw [hsel]
    simp only [bestOf, primarySource, kickerSource, fieldSizes, topk_one, topk_zero]
  · rw [← hquads, ← hpresent]
  · rw [← hquads, hq, diff_zero] at htrips
    rw [← hnoPairs (by omega), ← htrips]
  · rw [← hquads, hq, diff_zero] at htrips
    rw [← htrips, hibit_of_one_rank ht, hpairs, htrips]
  · rw [← hquads, hq, diff_zero] at htrips
    rw [hsingles, ← hnoPairs (by simp [hp]), ← htrips, hibit_of_one_rank ht]
  · rw [← hnoTrips ht, ← hquads, hq, diff_zero] at hpairs
    rw [← hpairs, ← hpresent]
  · rw [← hnoTrips ht, ← hquads, hq, diff_zero] at hpairs
    rw [hsingles, ← hpairs, hibit_of_one_rank hp]
  · rw [← hnoPairs hp, ← hnoTrips ht, ← hquads, hq, diff_zero] at hsingles
    rw [hsingles]

/-- A selection is the best of its category, for a flush of the suit of five cards. -/
theorem select_eq_bestOf {hand : Word} (hw : wellFormedHand hand = true) :
    ∃ q : Suit, select (matcherNets hand) = bestOf hand q (select (matcherNets hand)).cat := by
  obtain ⟨-, hsel⟩ | ⟨-, hsel⟩ := select_cases (matcherNets hand)
  · obtain ⟨-, hrule⟩ | ⟨-, q, -, hrule⟩ | ⟨-, -, -, hrule⟩ | ⟨-, -, -, hrule⟩ := selectFiveRanks_cases (matcherNets hand)
    · rw [Option.some.inj (hsel.symm.trans hrule)]
      exact ⟨0, by simp only [bestOf, primarySource, fieldSizes, topk_one, topk_zero]⟩
    · rw [Option.some.inj (hsel.symm.trans hrule)]
      exact ⟨q, rfl⟩
    · rw [Option.some.inj (hsel.symm.trans hrule)]
      exact ⟨0, by simp only [bestOf, primarySource, fieldSizes, topk_one, topk_zero]⟩
    · cases hsel.symm.trans hrule
  · rw [hsel]
    exact ⟨0, selectByCounts_eq_bestOf hw 0⟩

/-- A well-formed hand has the cards for what CLASSIFY selects. -/
theorem makes_of_select_eq_bestOf {hand : Word} {q : Suit} (hw : wellFormedHand hand = true)
    (h : select (matcherNets hand) = bestOf hand q (select (matcherNets hand)).cat) :
    Makes hand q (select (matcherNets hand)) := by
  obtain ⟨-, -, hpSize, hkSize⟩ := fieldsFit_select hw
  refine ⟨?_, ?_, hpSize, hkSize, fieldsDisjoint_select hand⟩
  · rw [h]
    exact topk_subMask _ _
  · rw [h]
    exact (topk_subMask _ _).trans (subMask_and_left _ _)

theorem exists_makes_select {hand : Word} (hw : wellFormedHand hand = true) :
    ∃ q : Suit, Makes hand q (select (matcherNets hand)) := by
  obtain ⟨q, h⟩ := select_eq_bestOf hw
  exact ⟨q, makes_of_select_eq_bestOf hw h⟩

/-! The selection is the best (R190) -/

theorem ne_zero_of_subMask {x m : Mask} (h : SubMask x m) (hx : 1 ≤ popcount x) : m ≠ 0 :=
  (popcount_pos_iff m).mp (hx.trans (popcount_mono h))

/-- A hand that makes a selection meets the test of its category. -/
theorem Makes.meets {hand : Word} {q : Suit} {sel : Selection} (h : Makes hand q sel) : Meets hand sel.cat := by
  obtain ⟨hp, hk, hpSize, hkSize, hdisjoint⟩ := h
  have hprimary := popcount_mono hp
  have hrest := popcount_mono (subMask_rest hk hdisjoint)
  rw [hpSize] at hprimary
  cases hc : sel.cat <;> rw [hc] at hp hk hpSize hkSize hprimary hrest
  case straightFlush => exact ne_zero_of_subMask hp hpSize.ge
  case straight => exact ne_zero_of_subMask hp hpSize.ge
  case flush => exact ⟨q, hprimary⟩
  case fullHouse =>
    have hsub : SubMask sel.p (heldAtLeast hand 2) := hp.trans (heldAtLeast_subMask hand (by decide) (by decide))
    have hsplit := hsub.popcount_eq
    simp only [kickerSource, fieldSizes] at hpSize hkSize hrest
    exact ⟨hprimary, by omega⟩
  case highCard => trivial
  all_goals exact hprimary

/-- Two selections of one category are taken from the same ranks: seven cards hold one flush. -/
theorem primarySource_eq_of_makes {hand : Word} {q q' : Suit} {sel sel' : Selection} (hw : wellFormedHand hand = true)
    (h : Makes hand q sel) (h' : Makes hand q' sel') (hcat : sel.cat = sel'.cat) :
    primarySource hand q sel.cat = primarySource hand q' sel.cat := by
  have hp := popcount_mono h.primary
  have hp' := popcount_mono h'.primary
  rw [h.primarySize] at hp
  rw [h'.primarySize, ← hcat] at hp'
  cases hc : sel.cat <;> rw [hc] at hp hp'
  case flush => rw [suit_eq_of_four_le hw (Nat.le_of_succ_le hp) (Nat.le_of_succ_le hp')]
  all_goals rfl

theorem Makes.fields_le {hand : Word} {q q' : Suit} {sel best : Selection} (hw : wellFormedHand hand = true)
    (h : Makes hand q sel) (hbest : Makes hand q' best) (htop : best = bestOf hand q' best.cat) (hcat : sel.cat = best.cat) :
    sel.p ≤ best.p ∧ (sel.p = best.p → sel.k ≤ best.k) := by
  have hsource := primarySource_eq_of_makes hw h hbest hcat
  have hp : best.p = topk (primarySource hand q sel.cat) (fieldSizes sel.cat).1 := by
    rw [hsource, hcat]
    exact congrArg Selection.p htop
  have hk : best.k = topk (kickerSource hand sel.cat &&& ~~~best.p) (fieldSizes sel.cat).2 := by
    rw [hp, hsource, hcat]
    exact congrArg Selection.k htop
  constructor
  · rw [hp]
    exact le_topk h.primary (by rw [← hp, h.primarySize, hbest.primarySize, hcat])
  · intro heq
    rw [hk]
    exact le_topk (heq ▸ subMask_rest h.kickers h.disjoint) (by rw [← hk, h.kickersSize, hbest.kickersSize, hcat])

/-- CLASSIFY's selection has the largest value of all the hand can make. -/
theorem value_le_of_makes {hand : Word} {q : Suit} {sel : Selection} (hw : wellFormedHand hand = true)
    (h : Makes hand q sel) : sel.value ≤ (select (matcherNets hand)).value := by
  obtain ⟨q', htop⟩ := select_eq_bestOf hw
  have hbest := makes_of_select_eq_bestOf hw htop
  generalize hs : select (matcherNets hand) = best at *
  have hcode : sel.cat.code.toNat ≤ best.cat.code.toNat := (hs ▸ isStrongest_select hw).code_le h.meets
  obtain hlt | heq := Nat.lt_or_eq_of_le hcode
  · exact Nat.le_of_lt (valueOf_lt_of_code_lt best.p best.k sel.p sel.k hlt)
  · have hcat := (code_inj_iff _ _).mp heq
    obtain ⟨hp, hk⟩ := h.fields_le hw hbest htop hcat
    refine Nat.le_of_not_lt fun hlt => ?_
    rw [Selection.value, Selection.value, hcat, ← BitVec.lt_def, valueOf_lt_iff] at hlt
    obtain hlt | ⟨heq, hlt⟩ := hlt
    · exact Nat.not_lt.mpr hp hlt
    · exact Nat.not_lt.mpr (hk heq.symm) hlt

end Sys2Proof.Laws
end

section
/-! SUPPORT. Hands that cover others (44_poker_hand_classifier.md R206): a hand makes all that a hand makes whose lanes it
holds, in whatever order of suits; so permuted lanes have one value. -/

namespace Sys2Proof.Laws

open Sys2Proof.Machine

/-- Each lane of the one hand, ace duplicate included, is part of a lane of the other: of lane `σ q` for lane `q`. -/
def Covers (σ : Equiv.Perm Suit) (hand part : Word) : Prop :=
  ∀ q : Suit, SubMask ((straightLanes part).get q) ((straightLanes hand).get (σ q))

theorem Covers.rankLanes_subMask {σ : Equiv.Perm Suit} {hand part : Word} (h : Covers σ hand part) (q : Suit) :
    SubMask ((rankLanes part).get q) ((rankLanes hand).get (σ q)) := by
  intro j hj
  rw [getLsbD_rankLanes_of_straightLanes, Bool.and_eq_true] at hj ⊢
  exact ⟨hj.1, h q j hj.2⟩

theorem Covers.rankCount_le {σ : Equiv.Perm Suit} {hand part : Word} (h : Covers σ hand part) (j : Nat) :
    rankCount (rankLanes part) j ≤ rankCount (rankLanes hand) j := by
  rw [← card_lanes_eq_rankCount, ← card_lanes_eq_rankCount]
  refine Finset.card_le_card_of_injOn σ (fun q hq => ?_) σ.injective.injOn
  rw [Finset.mem_coe, Finset.mem_filter] at hq ⊢
  exact ⟨Finset.mem_univ _, h.rankLanes_subMask q j hq.2⟩

theorem Covers.heldAtLeast_subMask {σ : Equiv.Perm Suit} {hand part : Word} (h : Covers σ hand part) {c : Nat} (hc : 1 ≤ c) :
    SubMask (heldAtLeast part c) (heldAtLeast hand c) := by
  intro j hj
  rw [getLsbD_heldAtLeast _ hc] at hj ⊢
  exact hj.trans (h.rankCount_le j)

theorem Covers.stm_subMask {σ : Equiv.Perm Suit} {hand part : Word} (h : Covers σ hand part) :
    SubMask (matcherNets part).stm (matcherNets hand).stm := by
  refine straightMask_mono fun j hj => ?_
  obtain ⟨q, hq⟩ := (getLsbD_orLanes _ j).mp hj
  exact (getLsbD_orLanes _ j).mpr ⟨σ q, h q j hq⟩

theorem Covers.sfm_subMask {σ : Equiv.Perm Suit} {hand part : Word} (h : Covers σ hand part) :
    SubMask (matcherNets part).sfm (matcherNets hand).sfm := by
  intro j hj
  obtain ⟨q, hq⟩ := (getLsbD_orLanes _ j).mp hj
  rw [perSuit_get_map] at hq
  refine (getLsbD_orLanes _ j).mpr ⟨σ q, ?_⟩
  rw [perSuit_get_map]
  exact straightMask_mono (h q) j hq

theorem Covers.primarySource_subMask {σ : Equiv.Perm Suit} {hand part : Word} (h : Covers σ hand part) (q : Suit) (c : Category) :
    SubMask (primarySource part q c) (primarySource hand (σ q) c) := by
  cases c with
  | straightFlush => exact h.sfm_subMask
  | flush => exact h.rankLanes_subMask q
  | straight => exact h.stm_subMask
  | _ => exact h.heldAtLeast_subMask (by decide)

theorem Covers.kickerSource_subMask {σ : Equiv.Perm Suit} {hand part : Word} (h : Covers σ hand part) (c : Category) :
    SubMask (kickerSource part c) (kickerSource hand c) := by
  cases c <;> exact h.heldAtLeast_subMask (by decide)

theorem Covers.makes {σ : Equiv.Perm Suit} {hand part : Word} {q : Suit} {sel : Selection} (h : Covers σ hand part)
    (hmakes : Makes part q sel) : Makes hand (σ q) sel :=
  { hmakes with
    primary := hmakes.primary.trans (h.primarySource_subMask q sel.cat)
    kickers := hmakes.kickers.trans (h.kickerSource_subMask sel.cat) }

/-- A hand that covers another has at least its value. -/
theorem Covers.value_le {σ : Equiv.Perm Suit} {hand part : Word} (h : Covers σ hand part)
    (hhand : wellFormedHand hand = true) (hpart : wellFormedHand part = true) :
    (select (matcherNets part)).value ≤ (select (matcherNets hand)).value := by
  obtain ⟨q, hmakes⟩ := exists_makes_select hpart
  exact value_le_of_makes hhand (h.makes hmakes)

/-! Permuted lanes (R206) -/

theorem getLsbD_permuteLanes (σ : Equiv.Perm Suit) (hand : Word) (q : Suit) {j : Nat} (hj : j < 16) :
    (permuteLanes σ hand).getLsbD (16 * q.val + j) = hand.getLsbD (16 * (σ q).val + j) := by
  have hq : (⟨(16 * q.val + j) / 16, by omega⟩ : Suit) = q := Fin.ext (show (16 * q.val + j) / 16 = q.val by omega)
  have hlt : 16 * q.val + j < 64 := by omega
  simp only [permuteLanes, BitVec.getLsbD_ofFnLE, hlt, dif_pos]
  rw [hq, show (16 * q.val + j) % 16 = j by omega]

theorem straightLanes_permuteLanes (σ : Equiv.Perm Suit) (hand : Word) (q : Suit) :
    (straightLanes (permuteLanes σ hand)).get q = (straightLanes hand).get (σ q) := by
  apply BitVec.eq_of_getLsbD_eq
  intro j hj
  rw [getLsbD_straightLanes, getLsbD_straightLanes, getLsbD_permuteLanes σ hand q (by omega)]

theorem rankLanes_permuteLanes (σ : Equiv.Perm Suit) (hand : Word) (q : Suit) :
    (rankLanes (permuteLanes σ hand)).get q = (rankLanes hand).get (σ q) := by
  rw [rankLanes, perSuit_get_map, straightLanes_permuteLanes, rankLanes, perSuit_get_map]

theorem cardCount_permuteLanes (σ : Equiv.Perm Suit) (hand : Word) : cardCount (permuteLanes σ hand) = cardCount hand := by
  simp only [cardCount_eq_sum_lanes, rankLanes_permuteLanes]
  exact Equiv.sum_comp σ fun q => popcount ((rankLanes hand).get q)

theorem unusedClear_iff (hand : Word) : unusedClear hand = true ↔
    ∀ (q : Suit) (j : Nat), j < 16 → 14 ≤ j → hand.getLsbD (16 * q.val + j) = false := by
  refine ⟨fun h q j => getLsbD_of_unusedClear h q, fun h => and_beq_zero_of_bits fun i hi hset => ?_⟩
  rw [getLsbD_handUnused hi, decide_eq_true_eq] at hset
  have hbit := h ⟨i / 16, by omega⟩ (i % 16) (Nat.mod_lt i (by decide)) hset
  rwa [Nat.div_add_mod] at hbit

theorem wellFormed_permuteLanes {σ : Equiv.Perm Suit} {hand : Word} (h : wellFormedHand hand = true) :
    wellFormedHand (permuteLanes σ hand) = true := by
  obtain ⟨⟨hunused, haces⟩, hcards⟩ := (wellFormedHand_iff hand).mp h
  refine (wellFormedHand_iff _).mpr ⟨⟨(unusedClear_iff _).mpr fun q j hj hhigh => ?_, (acesAgree_iff _).mpr fun q => ?_⟩, ?_⟩
  · rw [getLsbD_permuteLanes σ hand q hj]
    exact getLsbD_of_unusedClear hunused (σ q) hj hhigh
  · have hdup := getLsbD_permuteLanes σ hand q (j := 0) (by decide)
    rw [Nat.add_zero, Nat.add_zero] at hdup
    rw [hdup, getLsbD_permuteLanes σ hand q (by decide), (acesAgree_iff hand).mp haces (σ q)]
  · rwa [cardCount_permuteLanes]

/-- Settles O28: a hand and its permuted form cover each other, so neither has the larger value. -/
theorem valuesAreSuitSymmetric : Obligations.ValuesAreSuitSymmetric := by
  intro σ hand hw
  have hw' : wellFormedHand (permuteLanes σ hand) = true := wellFormed_permuteLanes hw
  have hcovers : Covers σ hand (permuteLanes σ hand) := fun q => by
    rw [straightLanes_permuteLanes]
    exact subMask_refl _
  have hcovered : Covers σ.symm (permuteLanes σ hand) hand := fun q => by
    rw [straightLanes_permuteLanes, Equiv.apply_symm_apply]
    exact subMask_refl _
  refine ⟨hw', ?_⟩
  rw [classify_of_wellFormed hw, classify_of_wellFormed hw']
  exact BitVec.le_antisymm (hcovers.value_le hw hw') (hcovered.value_le hw' hw)

end Sys2Proof.Laws
end

section
/-! SUPPORT. Five cards suffice (44_poker_hand_classifier.md R205): of the cards of a hand, five make what CLASSIFY selects,
either five of a suit or a number of copies of each rank the selection names. -/

namespace Sys2Proof.Laws

open Sys2Proof.Machine

/-! Hands given card by card -/

/-- The packed hand of the cards `P` names, by suit and rank index. -/
def handOf (P : Suit → Nat → Bool) : Word :=
  pack (BitVec.ofFnLE fun i : Fin 52 => P ⟨i.val / 13, by omega⟩ (i.val % 13 + 1))

theorem getLsbD_rankLanes_handOf (P : Suit → Nat → Bool) (q : Suit) (j : Nat) :
    ((rankLanes (handOf P)).get q).getLsbD j = (decide (1 ≤ j) && decide (j < 14) && P q j) := by
  rw [getLsbD_rankLanes]
  by_cases hj : 1 ≤ j ∧ j < 14
  · obtain ⟨i, rfl⟩ : ∃ i, j = i + 1 := ⟨j - 1, by omega⟩
    have hlt : 13 * q.val + i < 52 := by omega
    have hq : (⟨(13 * q.val + i) / 13, by omega⟩ : Suit) = q := Fin.ext (show (13 * q.val + i) / 13 = q.val by omega)
    rw [handOf, getLsbD_pack_rank _ q (by omega)]
    simp only [BitVec.getLsbD_ofFnLE, hlt, dif_pos]
    rw [hq, show (13 * q.val + i) % 13 = i by omega]
  · simp only [not_and_or] at hj
    obtain h | h := hj <;> simp [h]

theorem wellFormed_handOf {P : Suit → Nat → Bool} (h : cardCount (handOf P) = 5) : wellFormedHand (handOf P) = true :=
  (wellFormedHand_iff _).mpr ⟨⟨unusedClear_pack _, acesAgree_pack _⟩, .inl h⟩

theorem getLsbD_straightLanes_ace {hand : Word} (h : acesAgree hand = true) (q : Suit) :
    ((straightLanes hand).get q).getLsbD 0 = ((straightLanes hand).get q).getLsbD 13 := by
  rw [getLsbD_straightLanes, getLsbD_straightLanes, Nat.add_zero, (acesAgree_iff hand).mp h q]
  rfl

/-- Where duplicates agree with their Aces, lanes are known by their real ranks. -/
theorem covers_of_rankLanes {hand part : Word} (hhand : acesAgree hand = true) (hpart : acesAgree part = true)
    (h : ∀ q : Suit, SubMask ((rankLanes part).get q) ((rankLanes hand).get q)) : Covers 1 hand part := by
  intro q
  have hrank (j : Nat) (hpos : 1 ≤ j) (hj : ((straightLanes part).get q).getLsbD j = true) :
      ((straightLanes hand).get q).getLsbD j = true := by
    have hbit := h q j
    rw [getLsbD_rankLanes_of_straightLanes, getLsbD_rankLanes_of_straightLanes, decide_eq_true hpos] at hbit
    exact hbit hj
  intro j hj
  rw [Equiv.Perm.one_apply]
  cases j with
  | zero =>
    rw [getLsbD_straightLanes_ace hpart] at hj
    rw [getLsbD_straightLanes_ace hhand]
    exact hrank 13 (by decide) hj
  | succ j => exact hrank (j + 1) (Nat.le_add_left 1 j) hj

/-! Five cards of one suit -/

/-- The cards of suit `q` with the ranks of a mask. -/
def suited (q : Suit) (m : Mask) : Word := handOf fun q' j => decide (q' = q) && m.getLsbD j

theorem rankLanes_suited {q : Suit} {m : Mask} (hm : realRanks m = true) : (rankLanes (suited q m)).get q = m := by
  apply BitVec.eq_of_getLsbD_eq
  intro j hj
  rw [suited, getLsbD_rankLanes_handOf, decide_eq_true hj, decide_eq_true rfl, Bool.and_true, Bool.true_and]
  cases j with
  | zero => exact ((realRanks_iff m).mp hm).symm
  | succ j => simp

theorem rankLanes_suited_of_ne {q q' : Suit} (m : Mask) (h : q' ≠ q) : (rankLanes (suited q m)).get q' = 0 := by
  apply BitVec.eq_of_getLsbD_eq
  intro j hj
  rw [suited, getLsbD_rankLanes_handOf, decide_eq_false h]
  simp

theorem cardCount_suited {q : Suit} {m : Mask} (hm : realRanks m = true) : cardCount (suited q m) = popcount m := by
  rw [cardCount_eq_sum_lanes, Finset.sum_eq_single q, rankLanes_suited hm]
  · intro q' _ hne
    rw [rankLanes_suited_of_ne m hne]
    exact popcount_zero
  · intro h
    exact absurd (Finset.mem_univ q) h

/-! Copies of ranks -/

/-- How many lanes before `q` hold rank index `j`. -/
def lanesBefore (r : PerSuit Mask) (q : Suit) (j : Nat) : Nat :=
  match q with
  | 0 => 0
  | 1 => (r.s0.getLsbD j).toNat
  | 2 => (r.s0.getLsbD j).toNat + (r.s1.getLsbD j).toNat
  | 3 => (r.s0.getLsbD j).toNat + (r.s1.getLsbD j).toNat + (r.s2.getLsbD j).toNat

/-- Of each rank index `j`, the hand's first `d j` cards. -/
def dealt (hand : Word) (d : Nat → Nat) : Word :=
  handOf fun q j => ((rankLanes hand).get q).getLsbD j && decide (lanesBefore (rankLanes hand) q j < d j)

theorem getLsbD_rankLanes_dealt (hand : Word) (d : Nat → Nat) (q : Suit) (j : Nat) :
    ((rankLanes (dealt hand d)).get q).getLsbD j =
      (((rankLanes hand).get q).getLsbD j && decide (lanesBefore (rankLanes hand) q j < d j)) := by
  rw [dealt, getLsbD_rankLanes_handOf, ← Bool.and_assoc, getLsbD_rankLanes]
  cases decide (1 ≤ j) <;> cases decide (j < 14) <;> rfl

/-- The first `n` of four copies, as far as they are there. -/
theorem sum_first_copies (a b c d : Bool) (n : Nat) :
    (a && decide (0 < n)).toNat + (b && decide (a.toNat < n)).toNat + (c && decide (a.toNat + b.toNat < n)).toNat +
      (d && decide (a.toNat + b.toNat + c.toNat < n)).toNat = min n (a.toNat + b.toNat + c.toNat + d.toNat) := by
  by_cases hn : n < 4
  · have hall : ∀ n < 4, ∀ a b c d : Bool,
        (a && decide (0 < n)).toNat + (b && decide (a.toNat < n)).toNat + (c && decide (a.toNat + b.toNat < n)).toNat +
          (d && decide (a.toNat + b.toNat + c.toNat < n)).toNat = min n (a.toNat + b.toNat + c.toNat + d.toNat) := by
      decide
    exact hall n hn a b c d
  · have ha := a.toNat_le
    have hb := b.toNat_le
    have hc := c.toNat_le
    have hd := d.toNat_le
    rw [decide_eq_true (by omega), decide_eq_true (by omega), decide_eq_true (by omega), decide_eq_true (by omega)]
    simp only [Bool.and_true]
    omega

theorem rankCount_dealt (hand : Word) (d : Nat → Nat) (j : Nat) :
    rankCount (rankLanes (dealt hand d)) j = min (d j) (rankCount (rankLanes hand) j) := by
  have hlane := getLsbD_rankLanes_dealt hand d
  have h0 : (rankLanes (dealt hand d)).s0.getLsbD j = _ := hlane 0 j
  have h1 : (rankLanes (dealt hand d)).s1.getLsbD j = _ := hlane 1 j
  have h2 : (rankLanes (dealt hand d)).s2.getLsbD j = _ := hlane 2 j
  have h3 : (rankLanes (dealt hand d)).s3.getLsbD j = _ := hlane 3 j
  rw [rankCount, h0, h1, h2, h3]
  exact sum_first_copies _ _ _ _ (d j)

theorem covers_dealt {hand : Word} (hw : wellFormedHand hand = true) (d : Nat → Nat) : Covers 1 hand (dealt hand d) := by
  refine covers_of_rankLanes (acesAgree_of_wellFormed hw) (acesAgree_pack _) fun q j hj => ?_
  rw [getLsbD_rankLanes_dealt, Bool.and_eq_true] at hj
  exact hj.1

/-! Five cards for each category -/

/-- `mp` copies of each rank of `p` and `mk` of each rank of `k`. -/
def copies (p k : Mask) (mp mk : Nat) (j : Nat) : Nat := mp * (p.getLsbD j).toNat + mk * (k.getLsbD j).toNat

/-- If the hand has all the copies asked for, the cards dealt have exactly these. -/
theorem rankCount_dealt_copies {hand : Word} {p k : Mask} {mp mk : Nat} (hmp : 1 ≤ mp) (hmk : 1 ≤ mk)
    (hp : SubMask p (heldAtLeast hand mp)) (hk : SubMask k (heldAtLeast hand mk)) (hdisjoint : p &&& k = 0) (j : Nat) :
    rankCount (rankLanes (dealt hand (copies p k mp mk))) j = copies p k mp mk j := by
  have hbit := congrArg (fun v => v.getLsbD j) hdisjoint
  have hpj := fun h => (getLsbD_heldAtLeast hand hmp j).mp (hp j h)
  have hkj := fun h => (getLsbD_heldAtLeast hand hmk j).mp (hk j h)
  rw [rankCount_dealt, min_eq_left]
  unfold copies
  cases hpb : p.getLsbD j <;> cases hkb : k.getLsbD j
  case true.true => simp [hpb, hkb] at hbit
  case true.false => simpa using hpj hpb
  case false.true => simpa using hkj hkb
  case false.false => simp

theorem sum_copies (p k : Mask) (mp mk : Nat) :
    ∑ j ∈ Finset.range 14, copies p k mp mk j = mp * popcount p + mk * popcount k := by
  simp only [copies, Finset.sum_add_distrib, ← Finset.mul_sum, popcount_eq_sum]

/-- Five of the hand's cards, on their own, make the selection. -/
def FiveMake (hand : Word) (sel : Selection) : Prop :=
  ∃ five q, Covers 1 hand five ∧ wellFormedHand five = true ∧ cardCount five = 5 ∧ Makes five q sel

/-- Copies of ranks, five in all, are five cards of the hand. -/
theorem exists_five_copies {hand : Word} {p k : Mask} {mp mk : Nat} (hw : wellFormedHand hand = true) (hmp : 1 ≤ mp)
    (hmk : 1 ≤ mk) (hp : SubMask p (heldAtLeast hand mp)) (hk : SubMask k (heldAtLeast hand mk)) (hdisjoint : p &&& k = 0)
    (hfive : mp * popcount p + mk * popcount k = 5) :
    ∃ five, Covers 1 hand five ∧ wellFormedHand five = true ∧ cardCount five = 5 ∧
      SubMask p (heldAtLeast five mp) ∧ SubMask k (heldAtLeast five mk) := by
  have hcount := rankCount_dealt_copies hmp hmk hp hk hdisjoint
  have hcards : cardCount (dealt hand (copies p k mp mk)) = 5 := by
    rw [cardCount_eq_sum_ranks, Finset.sum_congr rfl fun j _ => hcount j, sum_copies, hfive]
  refine ⟨_, covers_dealt hw _, wellFormed_handOf hcards, hcards, fun j hj => ?_, fun j hj => ?_⟩
  · rw [getLsbD_heldAtLeast _ hmp, hcount, copies, hj]
    simp
  · rw [getLsbD_heldAtLeast _ hmk, hcount, copies, hj]
    simp

/-- Five cards for a category whose fields are ranks held so often. -/
theorem fiveMake_of_copies {hand : Word} {q : Suit} {sel : Selection} {mp mk : Nat} (hw : wellFormedHand hand = true)
    (h : Makes hand q sel) (hmp : 1 ≤ mp) (hmk : 1 ≤ mk)
    (hpSource : ∀ h : Word, primarySource h q sel.cat = heldAtLeast h mp)
    (hkSource : ∀ h : Word, kickerSource h sel.cat = heldAtLeast h mk)
    (hfive : mp * (fieldSizes sel.cat).1 + mk * (fieldSizes sel.cat).2 = 5) : FiveMake hand sel := by
  obtain ⟨hp, hk, hpSize, hkSize, hdisjoint⟩ := h
  rw [hpSource] at hp
  rw [hkSource] at hk
  rw [← hpSize, ← hkSize] at hfive
  obtain ⟨five, hcovers, hwf, hcards, hp5, hk5⟩ := exists_five_copies hw hmp hmk hp hk hdisjoint hfive
  rw [← hpSource] at hp5
  rw [← hkSource] at hk5
  exact ⟨five, q, hcovers, hwf, hcards, hp5, hk5, hpSize, hkSize, hdisjoint⟩

theorem subMask_of_popcount_zero {x : Mask} (h : popcount x = 0) (m : Mask) : SubMask x m := by
  rw [(popcount_eq_zero_iff x).mp h]
  intro j hj
  simp at hj

/-- The run of a straight is found again among its five ranks. -/
theorem getLsbD_straightMask_of_straightRanks {w : Mask} {j : Nat} (hlo : 4 ≤ j) (hhi : j ≤ 13)
    (hace : w.getLsbD 13 = true → w.getLsbD 0 = true) (h : SubMask (straightRanks j) w) :
    (straightMask w).getLsbD j = true := by
  refine (getLsbD_straightMask_iff w j).mpr ⟨hlo, hhi, fun d hd => ?_⟩
  by_cases hpos : 1 ≤ j - d
  · exact h _ ((getLsbD_straightRanks hlo hhi).mpr (.inl ⟨hpos, by omega, by omega⟩))
  · rw [show j - d = 0 by omega]
    exact hace (h 13 ((getLsbD_straightRanks hlo hhi).mpr (.inr ⟨by omega, rfl⟩)))

/-- Five cards of one suit make what their ranks are asked for. -/
theorem suited_five_cards {hand : Word} {q : Suit} {m : Mask} (hw : wellFormedHand hand = true)
    (hm : SubMask m ((rankLanes hand).get q)) (hfive : popcount m = 5) :
    Covers 1 hand (suited q m) ∧ wellFormedHand (suited q m) = true ∧ cardCount (suited q m) = 5 ∧
      (rankLanes (suited q m)).get q = m := by
  have hreal : realRanks m = true := hm.real ((perSuit_all_iff realRanks _).mp (rankLanes_real hand) q)
  have hcards : cardCount (suited q m) = 5 := (cardCount_suited hreal).trans hfive
  refine ⟨covers_of_rankLanes (acesAgree_of_wellFormed hw) (acesAgree_pack _) fun q' => ?_, wellFormed_handOf hcards, hcards,
    rankLanes_suited hreal⟩
  by_cases hq : q' = q
  · rw [hq, rankLanes_suited hreal]
    exact hm
  · rw [rankLanes_suited_of_ne m hq]
    exact subMask_of_popcount_zero popcount_zero _

theorem exists_bit_of_one_rank {p m : Mask} (hp : SubMask p m) (h : popcount p = 1) :
    ∃ j, p = BitVec.twoPow 14 j ∧ m.getLsbD j = true := by
  obtain ⟨j, htop, hj⟩ := exists_hibit_eq_twoPow ((popcount_pos_iff p).mp (by omega))
  exact ⟨j, (hibit_of_one_rank h).symm.trans htop, hp j hj⟩

theorem twoPow_subMask {m : Mask} {j : Nat} (h : m.getLsbD j = true) : SubMask (BitVec.twoPow 14 j) m := by
  intro i hi
  rw [BitVec.getLsbD_twoPow, Bool.and_eq_true, decide_eq_true_eq, decide_eq_true_eq] at hi
  rwa [← hi.2]

/-- A selection without kickers asks for its primary field only. -/
theorem Makes.of_primary {hand five : Word} {q q' : Suit} {sel : Selection} (h : Makes hand q sel)
    (hkickers : (fieldSizes sel.cat).2 = 0) (hp : SubMask sel.p (primarySource five q' sel.cat)) : Makes five q' sel :=
  { h with
    primary := hp
    kickers := subMask_of_popcount_zero (h.kickersSize.trans hkickers) _ }

theorem rankLane_eq (hand : Word) (q : Suit) : (rankLanes hand).get q = (straightLanes hand).get q &&& laneRanks := by
  rw [rankLanes, perSuit_get_map]

theorem rankLane_subMask_straightLane (hand : Word) (q : Suit) :
    SubMask ((rankLanes hand).get q) ((straightLanes hand).get q) := by
  rw [rankLane_eq]
  exact subMask_and_left _ _

/-- In contract a straight of a lane is five real ranks of it. -/
theorem straightRanks_subMask_rankLane {hand : Word} (hw : wellFormedHand hand = true) {q : Suit} {j : Nat}
    (h : (straightMask ((straightLanes hand).get q)).getLsbD j = true) :
    SubMask (straightRanks j) ((rankLanes hand).get q) := by
  rw [rankLane_eq]
  exact straightRanks_subMask (getLsbD_straightLanes_ace (acesAgree_of_wellFormed hw) q).symm.trans h

theorem fiveMake_of_straightFlush {hand : Word} {q : Suit} {sel : Selection} (hw : wellFormedHand hand = true)
    (h : Makes hand q sel) (hcat : sel.cat = .straightFlush) : FiveMake hand sel := by
  have hp := h.primary
  have hpSize := h.primarySize
  rw [hcat] at hp hpSize
  obtain ⟨j, hpj, hj⟩ := exists_bit_of_one_rank hp hpSize
  obtain ⟨suit, hrun⟩ := (getLsbD_orLanes _ j).mp hj
  rw [perSuit_get_map] at hrun
  obtain ⟨hlo, hhi, -⟩ := (getLsbD_straightMask_iff _ j).mp hrun
  obtain ⟨hcovers, hwf, hcards, hlane⟩ :=
    suited_five_cards hw (straightRanks_subMask_rankLane hw hrun) (popcount_straightRanks hlo hhi)
  refine ⟨_, suit, hcovers, hwf, hcards, h.of_primary (by rw [hcat]; rfl) ?_⟩
  rw [hcat, hpj]
  refine twoPow_subMask ((getLsbD_orLanes _ j).mpr ⟨suit, ?_⟩)
  rw [perSuit_get_map]
  have hranks := rankLane_subMask_straightLane (suited suit (straightRanks j)) suit
  rw [hlane] at hranks
  exact getLsbD_straightMask_of_straightRanks hlo hhi
    (fun hace => (getLsbD_straightLanes_ace (acesAgree_of_wellFormed hwf) suit).trans hace) hranks

theorem fiveMake_of_flush {hand : Word} {q : Suit} {sel : Selection} (hw : wellFormedHand hand = true)
    (h : Makes hand q sel) (hcat : sel.cat = .flush) : FiveMake hand sel := by
  have hp := h.primary
  have hpSize := h.primarySize
  rw [hcat] at hp hpSize
  obtain ⟨hcovers, hwf, hcards, hlane⟩ := suited_five_cards hw hp hpSize
  refine ⟨_, q, hcovers, hwf, hcards, h.of_primary (by rw [hcat]; rfl) ?_⟩
  rw [hcat, primarySource, hlane]
  exact subMask_refl _

theorem fiveMake_of_straight {hand : Word} {q : Suit} {sel : Selection} (hw : wellFormedHand hand = true)
    (h : Makes hand q sel) (hcat : sel.cat = .straight) : FiveMake hand sel := by
  have hp := h.primary
  have hpSize := h.primarySize
  rw [hcat] at hp hpSize
  obtain ⟨j, hpj, hj⟩ := exists_bit_of_one_rank hp hpSize
  obtain ⟨hlo, hhi, -⟩ := (getLsbD_straightMask_iff _ j).mp hj
  have hranks := straightRanks_subMask_present (noStrayDuplicate_of_wellFormed hw) hj
  rw [present_eq_heldAtLeast] at hranks
  obtain ⟨five, hcovers, hwf, hcards, hfive, -⟩ := exists_five_copies hw le_rfl le_rfl hranks
    (subMask_of_popcount_zero popcount_zero (heldAtLeast hand 1)) BitVec.and_zero
    (by rw [popcount_straightRanks hlo hhi, popcount_zero])
  refine ⟨five, q, hcovers, hwf, hcards, h.of_primary (by rw [hcat]; rfl) ?_⟩
  rw [hcat, hpj]
  rw [← present_eq_heldAtLeast] at hfive
  exact twoPow_subMask (getLsbD_straightMask_of_straightRanks hlo hhi
    (fun hace => (orLanes_ace_of_acesAgree (acesAgree_of_wellFormed hwf)).trans hace)
    (hfive.trans (subMask_and_left _ _)))

/-- Of the cards that make a selection, five make it. -/
theorem fiveMake_of_makes {hand : Word} {q : Suit} {sel : Selection} (hw : wellFormedHand hand = true)
    (h : Makes hand q sel) : FiveMake hand sel := by
  have hcopies {mp mk : Nat} := fiveMake_of_copies (mp := mp) (mk := mk) hw h
  cases hcat : sel.cat <;> simp only [hcat] at hcopies
  case straightFlush => exact fiveMake_of_straightFlush hw h hcat
  case flush => exact fiveMake_of_flush hw h hcat
  case straight => exact fiveMake_of_straight hw h hcat
  case fourOfAKind => exact hcopies (mp := 4) (mk := 1) (by decide) le_rfl (fun _ => rfl) (fun _ => rfl) rfl
  case fullHouse => exact hcopies (mp := 3) (mk := 2) (by decide) (by decide) (fun _ => rfl) (fun _ => rfl) rfl
  case threeOfAKind => exact hcopies (mp := 3) (mk := 1) (by decide) le_rfl (fun _ => rfl) (fun _ => rfl) rfl
  case twoPair => exact hcopies (mp := 2) (mk := 1) (by decide) le_rfl (fun _ => rfl) (fun _ => rfl) rfl
  case onePair => exact hcopies (mp := 2) (mk := 1) (by decide) le_rfl (fun _ => rfl) (fun _ => rfl) rfl
  case highCard => exact hcopies (mp := 1) (mk := 1) le_rfl le_rfl (fun _ => rfl) (fun _ => rfl) rfl

end Sys2Proof.Laws
end

section
/-! SUPPORT. A hand's cards against its masks (00_scope.md R13, 44_poker_hand_classifier.md R209): the counts that standard
poker ranking takes on a list of cards are those the block's masks hold. -/

namespace Sys2Proof.Laws

open Sys2Proof.Machine

/-! The ranks of a mask -/

/-- The ranks of a mask of rank indices, from the highest down. -/
def ranksOf (m : Mask) : List Nat := ranksDown.filter fun rank => m.getLsbD (rank - 1)

theorem ranksOf_eq_map_indicesDown {m : Mask} (h : realRanks m = true) : ranksOf m = (indicesDown m).map (· + 1) := by
  have hranks : ranksDown = (List.range' 1 13).reverse.map (· + 1) := rfl
  have hindices : (List.range 14).reverse = (List.range' 1 13).reverse ++ [0] := rfl
  have hbit : ¬ m.getLsbD 0 = true := Bool.eq_false_iff.mp ((realRanks_iff m).mp h)
  rw [ranksOf, hranks, List.filter_map, indicesDown, hindices, List.filter_append, List.filter_cons_of_neg hbit,
    List.filter_nil, List.append_nil]
  rfl

theorem mem_ranksOf_iff (m : Mask) (rank : Nat) :
    rank ∈ ranksOf m ↔ (2 ≤ rank ∧ rank ≤ 14) ∧ m.getLsbD (rank - 1) = true := by
  rw [ranksOf, List.mem_filter, mem_ranksDown_iff]

theorem nodup_ranksOf (m : Mask) : (ranksOf m).Nodup := by
  have hranks : ranksDown.Nodup := by decide
  exact hranks.filter _

theorem length_indicesDown (m : Mask) : (indicesDown m).length = popcount m := by
  rw [indicesDown, ← List.countP_eq_length_filter, List.countP_reverse, popcount]

theorem length_ranksOf {m : Mask} (h : realRanks m = true) : (ranksOf m).length = popcount m := by
  rw [ranksOf_eq_map_indicesDown h, List.length_map, length_indicesDown]

/-! Cards by rank and by suit -/

theorem getLsbD_rankLanes_of_rank (hand : Word) (q : Suit) {rank : Nat} (hlo : 2 ≤ rank) (hhi : rank ≤ 14) :
    ((rankLanes hand).get q).getLsbD (rank - 1) = hand.getLsbD (handBit rank q) := by
  rw [getLsbD_rankLanes, decide_eq_true (by omega), decide_eq_true (by omega), handBit]
  rfl

theorem mem_cardsOf_iff_rankLanes (hand : Word) (c : Card) :
    c ∈ cardsOf hand ↔ (2 ≤ c.rank ∧ c.rank ≤ 14) ∧ ((rankLanes hand).get c.suit).getLsbD (c.rank - 1) = true := by
  rw [mem_cardsOf_iff]
  refine and_congr_right fun ⟨hlo, hhi⟩ => ?_
  rw [getLsbD_rankLanes_of_rank hand c.suit hlo hhi]

/-- The cards of one rank, suit by suit. -/
theorem cardsOfRank_cardsOf (hand : Word) {rank : Nat} (hlo : 2 ≤ rank) (hhi : rank ≤ 14) :
    cardsOfRank (cardsOf hand) rank = rankCount (rankLanes hand) (rank - 1) := by
  have hperm : ((cardsOf hand).filter fun c => c.rank == rank).Perm
      (((List.finRange 4).filter fun q => ((rankLanes hand).get q).getLsbD (rank - 1)).map fun q => ⟨rank, q⟩) := by
    refine (List.perm_ext_iff_of_nodup ((nodup_cardsOf hand).filter _)
      (((List.nodup_finRange 4).filter _).map fun _ _ h => (Card.mk.inj h).2)).mpr ?_
    rintro ⟨r, q⟩
    simp only [List.mem_filter, mem_cardsOf_iff_rankLanes, beq_iff_eq, List.mem_map, List.mem_finRange, true_and,
      Card.mk.injEq, exists_eq_right_right]
    constructor
    · rintro ⟨⟨-, hbit⟩, rfl⟩
      exact ⟨hbit, rfl⟩
    · rintro ⟨hbit, rfl⟩
      exact ⟨⟨⟨hlo, hhi⟩, hbit⟩, rfl⟩
  have hsuits : List.finRange 4 = [0, 1, 2, 3] := rfl
  have hbit (b : Bool) : (if b = true then 1 else 0) = b.toNat := by cases b <;> rfl
  rw [cardsOfRank, List.countP_eq_length_filter, hperm.length_eq, List.length_map, ← List.countP_eq_length_filter, hsuits]
  simp only [List.countP_cons, List.countP_nil, hbit, Nat.zero_add, rankCount, PerSuit.get]
  omega

/-- The cards of one suit, rank by rank. -/
theorem countP_suit_cardsOf (hand : Word) (q : Suit) :
    (cardsOf hand).countP (fun c => c.suit == q) = popcount ((rankLanes hand).get q) := by
  have hreal : realRanks ((rankLanes hand).get q) = true := (perSuit_all_iff realRanks _).mp (rankLanes_real hand) q
  have hperm : ((cardsOf hand).filter fun c => c.suit == q).Perm
      ((ranksOf ((rankLanes hand).get q)).map fun rank => ⟨rank, q⟩) := by
    refine (List.perm_ext_iff_of_nodup ((nodup_cardsOf hand).filter _)
      ((nodup_ranksOf _).map fun _ _ h => (Card.mk.inj h).1)).mpr ?_
    rintro ⟨r, q'⟩
    simp only [List.mem_filter, mem_cardsOf_iff_rankLanes, beq_iff_eq, List.mem_map, mem_ranksOf_iff, Card.mk.injEq]
    constructor
    · rintro ⟨hcard, rfl⟩
      exact ⟨r, hcard, rfl, rfl⟩
    · rintro ⟨_, hcard, rfl, rfl⟩
      exact ⟨hcard, rfl⟩
  rw [List.countP_eq_length_filter, hperm.length_eq, List.length_map, length_ranksOf hreal]

theorem length_cardsOf (hand : Word) : (cardsOf hand).length = cardCount hand := by
  have hlane (q : Suit) : (ranksDown.filter fun rank => hand.getLsbD (handBit rank q)).length =
      popcount ((rankLanes hand).get q) := by
    rw [← length_ranksOf ((perSuit_all_iff realRanks _).mp (rankLanes_real hand) q), ranksOf]
    refine congrArg List.length (List.filter_congr fun rank hrank => ?_)
    obtain ⟨hlo, hhi⟩ := (mem_ranksDown_iff rank).mp hrank
    exact (getLsbD_rankLanes_of_rank hand q hlo hhi).symm
  have hsuits : List.finRange 4 = [0, 1, 2, 3] := rfl
  rw [cardsOf, List.length_flatMap, cardCount_eq_sum_lanes, Fin.sum_univ_four, hsuits]
  simp only [List.length_map, hlane, List.map_cons, List.map_nil, List.sum_cons, List.sum_nil]
  omega

theorem ranksHeldTimes_cardsOf (hand : Word) {c : Nat} (hc : 1 ≤ c) :
    ranksHeldTimes (cardsOf hand) c = ranksOf (ranksHeld (rankLanes hand) c) := by
  refine List.filter_congr fun rank hrank => ?_
  obtain ⟨hlo, hhi⟩ := (mem_ranksDown_iff rank).mp hrank
  rw [cardsOfRank_cardsOf hand hlo hhi, getLsbD_ranksHeld_rankLanes hand hc (by omega)]

theorem ranksHeldAtLeast_cardsOf (hand : Word) {c : Nat} (hc : 1 ≤ c) :
    (ranksDown.filter fun rank => decide (c ≤ cardsOfRank (cardsOf hand) rank)) = ranksOf (heldAtLeast hand c) := by
  refine List.filter_congr fun rank hrank => ?_
  obtain ⟨hlo, hhi⟩ := (mem_ranksDown_iff rank).mp hrank
  rw [cardsOfRank_cardsOf hand hlo hhi, Bool.eq_iff_iff, decide_eq_true_eq, getLsbD_heldAtLeast hand hc]

/-! The highest straight -/

/-- The first element of a falling list that passes a test is the greatest one that does. -/
theorem find?_of_falling {l : List Nat} (hl : l.Pairwise (· > ·)) {p : Nat → Bool} {a : Nat} (ha : a ∈ l) (hp : p a = true)
    (habove : ∀ b ∈ l, a < b → p b = false) : l.find? p = some a := by
  induction l with
  | nil => cases ha
  | cons x xs ih =>
    obtain ⟨hx, hxs⟩ := List.pairwise_cons.mp hl
    obtain rfl | hmem := List.mem_cons.mp ha
    · exact List.find?_cons_of_pos hp
    · have hfirst : p x = false := habove x List.mem_cons_self (hx a hmem)
      rw [List.find?_cons_of_neg (Bool.eq_false_iff.mp hfirst)]
      exact ih hxs hmem fun b hb => habove b (List.mem_cons_of_mem x hb)

/-- The cards' ranks are those of the mask, whose bit 0 repeats its Ace. -/
structure RanksAre (cards : List Card) (w : Mask) : Prop where
  rank : ∀ rank, 2 ≤ rank → rank ≤ 14 → (0 < cardsOfRank cards rank ↔ w.getLsbD (rank - 1) = true)
  ace : w.getLsbD 0 = w.getLsbD 13

/-- The places where a straight on cards is looked for are the bits of the straight detector. -/
theorem RanksAre.run_iff {cards : List Card} {w : Mask} (h : RanksAre cards w) {top : Nat} (hlo : 5 ≤ top) (hhi : top ≤ 14) :
    ((List.range 5).all fun d => decide (0 < cardsOfRank cards (if top - d = 1 then 14 else top - d))) =
      (straightMask w).getLsbD (top - 1) := by
  rw [Bool.eq_iff_iff, getLsbD_straightMask_iff, List.all_eq_true]
  simp only [List.mem_range, decide_eq_true_eq]
  have hbit (d : Nat) (hd : d < 5) : 0 < cardsOfRank cards (if top - d = 1 then 14 else top - d) ↔
      w.getLsbD (top - 1 - d) = true := by
    by_cases hone : top - d = 1
    · rw [if_pos hone, h.rank 14 (by decide) le_rfl, show top - 1 - d = 0 by omega, h.ace]
    · rw [if_neg hone, h.rank _ (by omega) (by omega), Nat.sub_right_comm]
  constructor
  · intro hrun
    exact ⟨by omega, by omega, fun d hd => (hbit d (by omega)).mp (hrun d (by omega))⟩
  · rintro ⟨-, -, hrun⟩ d hd
    exact (hbit d hd).mpr (hrun d (by omega))

/-- The highest straight on cards is the detector's highest bit. -/
theorem RanksAre.straightTop_cases {cards : List Card} {w : Mask} (h : RanksAre cards w) :
    (straightMask w = 0 ∧ straightTop cards = none) ∨
    (straightMask w ≠ 0 ∧ ∃ j, (4 ≤ j ∧ j ≤ 13) ∧ hibit (straightMask w) = BitVec.twoPow 14 j ∧ straightTop cards = some (j + 1)) := by
  have hrange : ∀ top ∈ [14, 13, 12, 11, 10, 9, 8, 7, 6, 5], 5 ≤ top ∧ top ≤ 14 := by decide
  obtain ⟨hzero, -⟩ | ⟨j, -, htop, hj, habove⟩ := hibit_cases (straightMask w)
  · refine .inl ⟨hzero, List.find?_eq_none.mpr fun top hmem => ?_⟩
    obtain ⟨hlo, hhi⟩ := hrange top hmem
    simp [h.run_iff hlo hhi, hzero]
  · obtain ⟨hlo, hhi, -⟩ := (getLsbD_straightMask_iff w j).mp hj
    have hmem : j + 1 ∈ [14, 13, 12, 11, 10, 9, 8, 7, 6, 5] := by
      simp only [List.mem_cons, List.not_mem_nil, or_false]
      omega
    have hne : straightMask w ≠ 0 := by
      rintro hzero
      simp [hzero] at hj
    refine .inr ⟨hne, j, ⟨hlo, hhi⟩, htop, find?_of_falling (by decide) hmem ?_ fun top htop hlt => ?_⟩
    · rw [h.run_iff (by omega) (by omega)]
      exact hj
    · obtain ⟨hlo, hhi⟩ := hrange top htop
      rw [h.run_iff hlo hhi]
      exact habove _ (by omega)

theorem RanksAre.isSome_straightTop {cards : List Card} {w : Mask} (h : RanksAre cards w) :
    (straightTop cards).isSome = true ↔ straightMask w ≠ 0 := by
  obtain ⟨hzero, htop⟩ | ⟨hne, j, -, -, htop⟩ := h.straightTop_cases
  · simp [hzero, htop]
  · rw [htop]
    exact iff_of_true rfl hne

/-- OR14 is the ranks of all the cards. -/
theorem ranksAre_or14 {hand : Word} (hw : wellFormedHand hand = true) : RanksAre (cardsOf hand) (matcherNets hand).or14 := by
  refine ⟨fun rank hlo hhi => ?_, orLanes_ace_of_acesAgree (acesAgree_of_wellFormed hw)⟩
  have hor : (matcherNets hand).or14.getLsbD (rank - 1) = true ↔ _ := getLsbD_orLanes _ _
  rw [cardsOfRank_cardsOf hand hlo hhi, Nat.pos_iff_ne_zero, ← Nat.one_le_iff_ne_zero, rankCount_pos_iff, hor]
  refine exists_congr fun q => ?_
  rw [getLsbD_rankLanes_of_straightLanes, decide_eq_true (by omega), Bool.true_and]

/-- A lane is the ranks of a suit's cards. -/
theorem ranksAre_straightLane {hand : Word} (hw : wellFormedHand hand = true) (q : Suit) :
    RanksAre ((cardsOf hand).filter fun c => c.suit == q) ((straightLanes hand).get q) := by
  refine ⟨fun rank hlo hhi => ?_, getLsbD_straightLanes_ace (acesAgree_of_wellFormed hw) q⟩
  have hlane := getLsbD_rankLanes_of_straightLanes hand q (rank - 1)
  rw [decide_eq_true (by omega), Bool.true_and] at hlane
  rw [cardsOfRank, List.countP_pos_iff, ← hlane]
  simp only [List.mem_filter, mem_cardsOf_iff_rankLanes, beq_iff_eq]
  constructor
  · rintro ⟨c, ⟨⟨-, hbit⟩, rfl⟩, rfl⟩
    exact hbit
  · intro hbit
    exact ⟨⟨rank, q⟩, ⟨⟨⟨hlo, hhi⟩, hbit⟩, rfl⟩, rfl⟩

end Sys2Proof.Laws
end

section
/-! SUPPORT. The standard categories of 5 to 7 cards (44_poker_hand_classifier.md R209, 00_scope.md R13; log 19): each test on
cards is the test on masks of the same category, and the strongest that is met is one, in whatever order it is looked for. -/

namespace Sys2Proof.Laws

open Sys2Proof.Machine

theorem ranksOf_ne_nil_iff {m : Mask} (h : realRanks m = true) : ranksOf m ≠ [] ↔ 1 ≤ popcount m := by
  rw [← length_ranksOf h, ← List.length_pos_iff, Nat.succ_le_iff]

theorem realRanks_heldAtLeast (hand : Word) {c : Nat} (hc : 1 ≤ c) : realRanks (heldAtLeast hand c) = true := by
  rw [realRanks_iff, ← Bool.not_eq_true, getLsbD_heldAtLeast hand hc, rankCount_rankLanes_zero]
  omega

/-- A straight among the cards of one suit is a straight flush. -/
theorem any_suit_straightTop_iff {hand : Word} (hw : wellFormedHand hand = true) :
    ((List.finRange 4).any fun s => (straightTop ((cardsOf hand).filter fun c => c.suit == s)).isSome) = true ↔
      Meets hand .straightFlush := by
  simp only [List.any_eq_true, List.mem_finRange, true_and, (ranksAre_straightLane hw _).isSome_straightTop, Meets]
  constructor
  · rintro ⟨q, hq⟩ hzero
    have hlane := lane_subMask_orLanes ((straightLanes hand).map straightMask) q
    rw [perSuit_get_map] at hlane
    exact hq ((subMask_zero_iff _).mp (hzero ▸ hlane))
  · intro hne
    obtain ⟨j, -, hj⟩ := exists_hibit_eq_twoPow hne
    obtain ⟨q, hq⟩ := (getLsbD_orLanes _ j).mp hj
    refine ⟨q, fun hzero => ?_⟩
    rw [perSuit_get_map, hzero] at hq
    simp at hq

theorem any_suit_five_cards_iff (hand : Word) :
    ((List.finRange 4).any fun s => decide (5 ≤ (cardsOf hand).countP fun c => c.suit == s)) = true ↔
      Meets hand .flush := by
  simp [Meets, countP_suit_cardsOf]

/-- A chain of tests from the strongest category down finds the strongest that is met. -/
theorem isStrongest_of_chain {hand : Word} {c8 c7 c6 c5 c4 c3 c2 c1 : Prop} [Decidable c8] [Decidable c7] [Decidable c6]
    [Decidable c5] [Decidable c4] [Decidable c3] [Decidable c2] [Decidable c1] (e8 : c8 ↔ Meets hand .straightFlush)
    (e7 : c7 ↔ Meets hand .fourOfAKind) (e6 : c6 ↔ Meets hand .fullHouse) (e5 : c5 ↔ Meets hand .flush)
    (e4 : c4 ↔ Meets hand .straight) (e3 : c3 ↔ Meets hand .threeOfAKind) (e2 : c2 ↔ Meets hand .twoPair)
    (e1 : c1 ↔ Meets hand .onePair) :
    IsStrongest hand (if c8 then .straightFlush else if c7 then .fourOfAKind else if c6 then .fullHouse
      else if c5 then .flush else if c4 then .straight else if c3 then .threeOfAKind else if c2 then .twoPair
      else if c1 then .onePair else .highCard) := by
  obtain rfl := propext e8
  obtain rfl := propext e7
  obtain rfl := propext e6
  obtain rfl := propext e5
  obtain rfl := propext e4
  obtain rfl := propext e3
  obtain rfl := propext e2
  obtain rfl := propext e1
  split_ifs with h8 h7 h6 h5 h4 h3 h2 h1
  · exact ⟨h8, by simp [categoriesAbove]⟩
  · exact ⟨h7, by simp [categoriesAbove, h8]⟩
  · exact ⟨h6, by simp [categoriesAbove, h8, h7]⟩
  · exact ⟨h5, by simp [categoriesAbove, h8, h7, h6]⟩
  · exact ⟨h4, by simp [categoriesAbove, h8, h7, h6, h5]⟩
  · exact ⟨h3, by simp [categoriesAbove, h8, h7, h6, h5, h4]⟩
  · exact ⟨h2, by simp [categoriesAbove, h8, h7, h6, h5, h4, h3]⟩
  · exact ⟨h1, by simp [categoriesAbove, h8, h7, h6, h5, h4, h3, h2]⟩
  · exact ⟨trivial, by simp [categoriesAbove, h8, h7, h6, h5, h4, h3, h2, h1]⟩

theorem isStrongest_standardCategory {hand : Word} (hw : wellFormedHand hand = true) :
    IsStrongest hand (standardCategory hand) := by
  have hlength := length_ranksOf (realRanks_heldAtLeast hand (c := 2) (by decide))
  have hheld {c : Nat} (hc : 1 ≤ c) := ranksOf_ne_nil_iff (realRanks_heldAtLeast hand hc)
  have hquads : ranksOf (heldAtLeast hand 4) ≠ [] ↔ Meets hand .fourOfAKind := hheld (by decide)
  have htrips : ranksOf (heldAtLeast hand 3) ≠ [] ↔ Meets hand .threeOfAKind := hheld (by decide)
  have hpair : ranksOf (heldAtLeast hand 2) ≠ [] ↔ Meets hand .onePair := hheld (by decide)
  have hpairs : 2 ≤ (ranksOf (heldAtLeast hand 2)).length ↔ Meets hand .twoPair := by rw [hlength, Meets]
  have hstraight : (straightTop (cardsOf hand)).isSome = true ↔ Meets hand .straight := (ranksAre_or14 hw).isSome_straightTop
  have hfull : ranksOf (heldAtLeast hand 3) ≠ [] ∧ 2 ≤ (ranksOf (heldAtLeast hand 2)).length ↔ Meets hand .fullHouse :=
    and_congr htrips hpairs
  simp only [standardCategory, ranksHeldAtLeast_cardsOf hand (show 1 ≤ 4 by decide),
    ranksHeldAtLeast_cardsOf hand (show 1 ≤ 3 by decide), ranksHeldAtLeast_cardsOf hand (show 1 ≤ 2 by decide)]
  exact isStrongest_of_chain (any_suit_straightTop_iff hw) hquads hfull (any_suit_five_cards_iff hand) hstraight htrips
    hpairs hpair

/-- Settles O23: the chain's category and the standard one are both the strongest the hand meets. -/
theorem wellFormedHandsGetTheirStandardCategory : Obligations.WellFormedHandsGetTheirStandardCategory := by
  intro hand hw
  rw [classify_eq_valueOf hw, categoryCodeOf_valueOf,
    (isStrongest_select hw).unique (isStrongest_standardCategory hw)]

end Sys2Proof.Laws
end

section
/-! SUPPORT. Hands of five cards (44_poker_hand_classifier.md R205, 00_scope.md R13; log 19): standard poker ranking of the five
cards is the category CLASSIFY selects, with the ranks of its two masks. -/

namespace Sys2Proof.Laws

open Sys2Proof.Machine

/-- A selection as a standard ranking: its category, then the ranks of `P` and of `K`, each from the highest down. -/
def rankingOf (sel : Selection) : Category × List Nat := (sel.cat, ranksOf sel.p ++ ranksOf sel.k)

@[simp] theorem ranksOf_zero : ranksOf 0#14 = [] := by decide

theorem ranksOf_twoPow {j : Nat} (hlo : 1 ≤ j) (hhi : j ≤ 13) : ranksOf (BitVec.twoPow 14 j) = [j + 1] := by
  have hall : ∀ j ≤ 13, 1 ≤ j → ranksOf (BitVec.twoPow 14 j) = [j + 1] := by decide
  exact hall j hhi hlo

/-! Straights and flushes of five cards -/

theorem oneSuit_cardsOf_iff {hand : Word} (hfive : cardCount hand = 5) :
    oneSuit (cardsOf hand) = true ↔ ∃ q : Suit, 5 ≤ popcount ((rankLanes hand).get q) := by
  rw [oneSuit, List.any_eq_true]
  simp only [List.mem_finRange, true_and]
  refine exists_congr fun q => ?_
  have hle := List.countP_le_length (p := fun c : Card => c.suit == q) (l := cardsOf hand)
  rw [List.all_eq_true, ← List.countP_eq_length, ← countP_suit_cardsOf]
  rw [length_cardsOf, hfive] at hle ⊢
  omega

/-- Five cards of one suit are all the ranks there are. -/
theorem present_eq_rankLane {hand : Word} {q : Suit} (hfive : cardCount hand = 5)
    (hq : 5 ≤ popcount ((rankLanes hand).get q)) : (rankLanes hand).get q = (matcherNets hand).present := by
  have hranks := distinctRanks_eq_tally hand
  have htally := cardCount_eq_tally hand
  rw [distinctRanks_eq_popcount] at hranks
  exact (rankLane_subMask_present hand q).eq_of_popcount_le (by omega)

theorem getLsbD_sfm_of_lane {hand : Word} {q : Suit} {j : Nat}
    (h : (straightMask ((straightLanes hand).get q)).getLsbD j = true) : (matcherNets hand).sfm.getLsbD j = true := by
  refine (getLsbD_orLanes _ j).mpr ⟨q, ?_⟩
  rwa [perSuit_get_map]

/-- With five cards of one suit a straight is a straight flush. -/
theorem sfm_eq_stm_of_flush {hand : Word} {q : Suit} (hw : wellFormedHand hand = true) (hfive : cardCount hand = 5)
    (hq : 5 ≤ popcount ((rankLanes hand).get q)) : (matcherNets hand).sfm = (matcherNets hand).stm := by
  have hsub : SubMask (matcherNets hand).stm (matcherNets hand).sfm := fun j hj => by
    obtain ⟨hlo, hhi, -⟩ := (getLsbD_straightMask_iff _ j).mp hj
    have hranks := straightRanks_subMask_present (noStrayDuplicate_of_wellFormed hw) hj
    rw [← present_eq_rankLane hfive hq] at hranks
    exact getLsbD_sfm_of_lane (getLsbD_straightMask_of_straightRanks hlo hhi
      (fun hace => (getLsbD_straightLanes_ace (acesAgree_of_wellFormed hw) q).trans hace)
      (hranks.trans (rankLane_subMask_straightLane hand q)))
  exact (sfm_subMask_stm hand).eq_of_popcount_le (popcount_mono hsub)

theorem exists_five_suit_of_sfm {hand : Word} (hw : wellFormedHand hand = true) (h : (matcherNets hand).sfm ≠ 0) :
    ∃ q : Suit, 5 ≤ popcount ((rankLanes hand).get q) := by
  obtain ⟨j, -, hj⟩ := exists_hibit_eq_twoPow h
  obtain ⟨q, hq⟩ := (getLsbD_orLanes _ j).mp hj
  rw [perSuit_get_map] at hq
  obtain ⟨hlo, hhi, -⟩ := (getLsbD_straightMask_iff _ j).mp hq
  have hfive := popcount_mono (straightRanks_subMask_rankLane hw hq)
  rw [popcount_straightRanks hlo hhi] at hfive
  exact ⟨q, hfive⟩

/-- The highest straight of a hand's cards is STM's highest bit. -/
theorem straightTop_of_stm {hand : Word} (hw : wellFormedHand hand = true) (h : (matcherNets hand).stm ≠ 0) :
    ∃ top, straightTop (cardsOf hand) = some top ∧ ranksOf (hibit (matcherNets hand).stm) = [top] := by
  obtain ⟨hzero, -⟩ | ⟨-, j, ⟨hlo, hhi⟩, hj, htop⟩ := (ranksAre_or14 hw).straightTop_cases
  · exact absurd hzero h
  · exact ⟨j + 1, htop, (congrArg ranksOf hj).trans (ranksOf_twoPow (by omega) hhi)⟩

theorem straightTop_eq_none {hand : Word} (hw : wellFormedHand hand = true) (h : (matcherNets hand).stm = 0) :
    straightTop (cardsOf hand) = none := by
  obtain ⟨-, htop⟩ | ⟨hne, -⟩ := (ranksAre_or14 hw).straightTop_cases
  · exact htop
  · exact absurd h hne

/-! The ranks held a number of times -/

theorem quads_eq_ranksHeld (hand : Word) : (matcherNets hand).quads = ranksHeld (rankLanes hand) 4 := by
  apply BitVec.eq_of_getLsbD_eq
  intro j hj
  rw [getLsbD_ranksHeld_rankLanes hand (by decide) hj]
  exact getLsbD_quadRanks_eq _ j

/-- The ranks held one to four times, by the tally. -/
theorem ranksHeldTimes_eq_tally (hand : Word) :
    ranksHeldTimes (cardsOf hand) 1 = ranksOf (matcherNets hand).singles ∧
    ranksHeldTimes (cardsOf hand) 2 = ranksOf (matcherNets hand).pairs ∧
    ranksHeldTimes (cardsOf hand) 3 = ranksOf (matcherNets hand).trips ∧
    ranksHeldTimes (cardsOf hand) 4 = ranksOf (matcherNets hand).quads := by
  rw [quads_eq_ranksHeld]
  exact ⟨ranksHeldTimes_cardsOf hand (by decide), ranksHeldTimes_cardsOf hand (by decide),
    ranksHeldTimes_cardsOf hand (by decide), ranksHeldTimes_cardsOf hand (by decide)⟩

theorem ranksOf_eq_nil {m : Mask} (h : popcount m = 0) : ranksOf m = [] := by
  rw [(popcount_eq_zero_iff m).mp h]
  exact ranksOf_zero

/-- Where no rank is held twice the ranks are the singles. -/
theorem singles_eq_present {hand : Word} (hp : popcount (matcherNets hand).pairs = 0)
    (ht : popcount (matcherNets hand).trips = 0) (hq : popcount (matcherNets hand).quads = 0) :
    (matcherNets hand).singles = (matcherNets hand).present := by
  rw [singles_eq_diff, present_eq_heldAtLeast, ← heldAtLeast_succ_of_none (c := 2) (by decide) hp,
    ← heldAtLeast_succ_of_none (c := 3) (by decide) ht, ← quads_eq_heldAtLeast, (popcount_eq_zero_iff _).mp hq, diff_zero]

/-! The ranking of five cards -/

theorem fiveCardRanking_of_selectFiveRanks {hand : Word} {sel : Selection} (hw : wellFormedHand hand = true)
    (hfive : cardCount hand = 5) (h5 : 5 ≤ (matcherNets hand).n.toNat)
    (h : selectFiveRanks (matcherNets hand) = some sel) : fiveCardRanking (cardsOf hand) = rankingOf sel := by
  have hranks := distinctRanks_eq_tally hand
  have htally := cardCount_eq_tally hand
  have hp : popcount (matcherNets hand).pairs = 0 := by omega
  have ht : popcount (matcherNets hand).trips = 0 := by omega
  have hq : popcount (matcherNets hand).quads = 0 := by omega
  obtain ⟨h1, h2, h3, h4⟩ := ranksHeldTimes_eq_tally hand
  rw [ranksOf_eq_nil hp] at h2
  rw [ranksOf_eq_nil ht] at h3
  rw [ranksOf_eq_nil hq] at h4
  obtain ⟨hsf, hsel⟩ | ⟨hsf, q, hfl, hsel⟩ | ⟨hsf, hfew, hst, hsel⟩ | ⟨-, -, -, hsel⟩ := selectFiveRanks_cases (matcherNets hand)
  · cases hsel.symm.trans h
    obtain ⟨q, hq⟩ := exists_five_suit_of_sfm hw hsf
    have hsuit := (oneSuit_cardsOf_iff hfive).mpr ⟨q, hq⟩
    rw [sfm_eq_stm_of_flush hw hfive hq] at hsf ⊢
    obtain ⟨top, htop, hrank⟩ := straightTop_of_stm hw hsf
    simp [fiveCardRanking, rankingOf, htop, hsuit, hrank]
  · cases hsel.symm.trans h
    rw [suitCount_eq_popcount] at hfl
    have hsuit := (oneSuit_cardsOf_iff hfive).mpr ⟨q, hfl⟩
    have htop := straightTop_eq_none hw ((sfm_eq_stm_of_flush hw hfive hfl).symm.trans hsf)
    have hlane : topk ((rankLanes hand).get q) 5 = (matcherNets hand).singles := by
      rw [present_eq_rankLane hfive hfl, singles_eq_present hp ht hq, topk_eq_self]
      rw [← distinctRanks_eq_popcount]
      omega
    have hlane' : topk ((matcherNets hand).r.get q) 5 = (matcherNets hand).singles := hlane
    simp [fiveCardRanking, rankingOf, htop, hsuit, h1, h2, h3, h4, hlane']
  · cases hsel.symm.trans h
    have hsuit : oneSuit (cardsOf hand) = false := by
      rw [← Bool.not_eq_true, oneSuit_cardsOf_iff hfive]
      rintro ⟨q, hq⟩
      have := hfew q
      rw [suitCount_eq_popcount] at this
      omega
    obtain ⟨top, htop, hrank⟩ := straightTop_of_stm hw hst
    simp [fiveCardRanking, rankingOf, htop, hsuit, h2, h3, h4, hrank]
  · cases hsel.symm.trans h

/-- The ranks held once are those left over by the ranks held more often, if these are all held one number of times. -/
theorem singles_eq_rest (hand : Word) :
    (popcount (matcherNets hand).pairs = 0 → popcount (matcherNets hand).trips = 0 →
      (matcherNets hand).present &&& ~~~(matcherNets hand).quads = (matcherNets hand).singles) ∧
    (popcount (matcherNets hand).trips = 0 → (matcherNets hand).quads = 0 →
      (matcherNets hand).present &&& ~~~(matcherNets hand).pairs = (matcherNets hand).singles) := by
  rw [singles_eq_diff, present_eq_heldAtLeast]
  constructor
  · intro hp ht
    rw [quads_eq_heldAtLeast, heldAtLeast_succ_of_none (c := 3) (by decide) ht,
      heldAtLeast_succ_of_none (c := 2) (by decide) hp]
  · intro ht hq
    have hnone := heldAtLeast_succ_of_none (c := 3) (by decide) ht
    rw [pairs_eq_diff, ← hnone, ← quads_eq_heldAtLeast, hq, diff_zero]

theorem exists_rank_of_one {m : Mask} (hreal : realRanks m = true) (h : popcount m = 1) : ∃ a, ranksOf m = [a] :=
  List.length_eq_one_iff.mp ((length_ranksOf hreal).trans h)

theorem fiveCardRanking_of_selectByCounts {hand : Word} (hw : wellFormedHand hand = true)
    (hfive : cardCount hand = 5) (h : 5 ≤ (matcherNets hand).n.toNat → selectFiveRanks (matcherNets hand) = none) :
    fiveCardRanking (cardsOf hand) = rankingOf (selectByCounts (matcherNets hand)) := by
  obtain ⟨-, hst, hfew⟩ := no_straight_or_flush hw h
  have htop := straightTop_eq_none hw hst
  have hsuit : oneSuit (cardsOf hand) = false := by
    rw [← Bool.not_eq_true, oneSuit_cardsOf_iff hfive, not_exists]
    exact hfew
  have htally := cardCount_eq_tally hand
  obtain ⟨h1, h2, h3, h4⟩ := ranksHeldTimes_eq_tally hand
  obtain ⟨-, -, -, hpairs, htrips, -⟩ := matcherForm_matcherNets hand
  have hquads : realRanks (matcherNets hand).quads = true := realRanks_quadRanks (rankLanes_real hand)
  have hposQuads := popcount_pos_iff (matcherNets hand).quads
  have hposPairs := popcount_pos_iff (matcherNets hand).pairs
  have hrest := singles_eq_rest hand
  generalize matcherNets hand = m at *
  obtain ⟨hq, hsel⟩ | ⟨hq, ht, hsel⟩ | ⟨hq, ht, hp, hsel⟩ | ⟨hq, ht, hp, hsel⟩ | ⟨hq, ht, hp, hsel⟩ | ⟨hq, ht, hp, hsel⟩ |
    ⟨hq, ht, hp, hsel⟩ := selectByCounts_cases m
  all_goals rw [hsel]
  · have hone := hposQuads.mpr hq
    obtain ⟨a, ha⟩ := exists_rank_of_one hquads (by omega)
    rw [hibit_of_one_rank (m := m.quads) (by omega)]
    rw [hrest.1 (by omega) (by omega), hibit_of_one_rank (m := m.singles) (by omega)]
    simp [fiveCardRanking, rankingOf, htop, hsuit, h1, h2, h3, h4, ha]
  · omega
  · have hnoQuads := (popcount_eq_zero_iff m.quads).mpr hq
    have hone := hposPairs.mpr hp
    obtain ⟨a, ha⟩ := exists_rank_of_one htrips ht
    obtain ⟨b, hb⟩ := exists_rank_of_one hpairs (by omega)
    rw [hibit_of_one_rank (m := m.pairs) (by omega)]
    simp [fiveCardRanking, rankingOf, htop, hsuit, h2, h3, h4, ha, hb, hq]
  · have hnoQuads := (popcount_eq_zero_iff m.quads).mpr hq
    have hnoPairs := (popcount_eq_zero_iff m.pairs).mpr hp
    obtain ⟨a, ha⟩ := exists_rank_of_one htrips ht
    rw [topk_eq_self (m := m.singles) (by omega)]
    simp [fiveCardRanking, rankingOf, htop, hsuit, h1, h2, h3, h4, ha, hq, hp]
  · have hnoQuads := (popcount_eq_zero_iff m.quads).mpr hq
    obtain ⟨a, b, hab⟩ := List.length_eq_two.mp ((length_ranksOf hpairs).trans (show popcount m.pairs = 2 by omega))
    rw [topk_eq_self (m := m.pairs) (by omega), hrest.2 ht hq, hibit_of_one_rank (m := m.singles) (by omega)]
    simp [fiveCardRanking, rankingOf, htop, hsuit, h1, h2, h3, h4, hab, hq, ranksOf_eq_nil ht]
  · have hnoQuads := (popcount_eq_zero_iff m.quads).mpr hq
    obtain ⟨a, ha⟩ := exists_rank_of_one hpairs hp
    rw [topk_eq_self (m := m.singles) (by omega)]
    simp [fiveCardRanking, rankingOf, htop, hsuit, h1, h2, h3, h4, ha, hq, ranksOf_eq_nil ht]
  · have hnoQuads := (popcount_eq_zero_iff m.quads).mpr hq
    rw [topk_eq_self (m := m.singles) (by omega)]
    simp [fiveCardRanking, rankingOf, htop, hsuit, h1, h2, h3, h4, hq, ranksOf_eq_nil ht, ranksOf_eq_nil hp]

/-- The five cards' standard ranking is what CLASSIFY selects. -/
theorem fiveCardRanking_cardsOf {hand : Word} (hw : wellFormedHand hand = true) (hfive : cardCount hand = 5) :
    fiveCardRanking (cardsOf hand) = rankingOf (select (matcherNets hand)) := by
  obtain ⟨h5, hsel⟩ | ⟨hnone, hsel⟩ := select_cases (matcherNets hand)
  · exact fiveCardRanking_of_selectFiveRanks hw hfive h5 hsel
  · rw [hsel]
    exact fiveCardRanking_of_selectByCounts hw hfive hnone

end Sys2Proof.Laws
end

section
/-! SUPPORT. Standard strengths as numbers (00_scope.md R13, 42_rank_encoder.md R153; log 19): a ranking's digits in base 16
compare as the category and the lists of ranks do, and so as values do. -/

namespace Sys2Proof.Laws

open Sys2Proof.Machine

/-! Digits in base 16 -/

/-- A number with more digits written after it, in base 16. -/
def withDigits (n : Nat) (l : List Nat) : Nat := l.foldl (fun acc rank => 16 * acc + rank) n

theorem withDigits_cons (n a : Nat) (l : List Nat) : withDigits n (a :: l) = withDigits (16 * n + a) l := rfl

theorem withDigits_append (n : Nat) (l l' : List Nat) : withDigits n (l ++ l') = withDigits (withDigits n l) l' :=
  List.foldl_append

/-- What is written in front decides first. -/
theorem withDigits_lt_of_lt {n n' : Nat} {l l' : List Nat} (h : n < n') (hlen : l.length = l'.length)
    (hl : ∀ a ∈ l, a < 16) : withDigits n l < withDigits n' l' := by
  induction l generalizing n n' l' with
  | nil =>
    rw [List.length_eq_zero_iff.mp hlen.symm]
    exact h
  | cons a l ih =>
    cases l' with
    | nil => cases hlen
    | cons a' l' =>
      have ha : a < 16 := hl a List.mem_cons_self
      rw [withDigits_cons, withDigits_cons]
      exact ih (by omega) (Nat.succ.inj hlen) fun b hb => hl b (List.mem_cons_of_mem a hb)

/-- Lists of digits of one length compare as what they write. -/
theorem withDigits_lt_of_list_lt {n : Nat} {l l' : List Nat} (h : l < l') (hlen : l.length = l'.length)
    (hl : ∀ a ∈ l, a < 16) : withDigits n l < withDigits n l' := by
  induction l generalizing n l' with
  | nil =>
    rw [List.length_eq_zero_iff.mp hlen.symm] at h
    cases h
  | cons a l ih =>
    cases l' with
    | nil => cases hlen
    | cons a' l' =>
      have hrest : ∀ b ∈ l, b < 16 := fun b hb => hl b (List.mem_cons_of_mem a hb)
      rw [withDigits_cons, withDigits_cons]
      obtain hlt | ⟨rfl, hlt⟩ := List.cons_lt_cons_iff.mp h
      · exact withDigits_lt_of_lt (by omega) (Nat.succ.inj hlen) hrest
      · exact ih hlt (Nat.succ.inj hlen) hrest

/-- Five digits: the ranks of a ranking, then zeros. -/
def fiveDigits (l : List Nat) : List Nat := (l ++ [0, 0, 0, 0, 0]).take 5

theorem rankingNumber_eq (r : Category × List Nat) : rankingNumber r = withDigits r.1.code.toNat (fiveDigits r.2) := rfl

theorem length_fiveDigits (l : List Nat) : (fiveDigits l).length = 5 := by
  rw [fiveDigits, List.length_take, List.length_append]
  simp

theorem fiveDigits_lt_sixteen {l : List Nat} (h : ∀ a ∈ l, a < 16) : ∀ a ∈ fiveDigits l, a < 16 := by
  intro a ha
  obtain hl | hzero := List.mem_append.mp (List.mem_of_mem_take ha)
  · exact h a hl
  · have hall : ∀ a ∈ [0, 0, 0, 0, 0], a < 16 := by decide
    exact hall a hzero

theorem fiveDigits_eq_append {l : List Nat} (h : l.length ≤ 5) :
    fiveDigits l = l ++ [0, 0, 0, 0, 0].take (5 - l.length) := by
  rw [fiveDigits, List.take_append, List.take_of_length_le h]

/-! The strength of a selection -/

/-- The number of a selection's standard ranking. -/
def strength (sel : Selection) : Nat := rankingNumber (rankingOf sel)

theorem rank_lt_sixteen (sel : Selection) : ∀ a ∈ (rankingOf sel).2, a < 16 := by
  intro a ha
  obtain h | h := List.mem_append.mp ha
  all_goals
    obtain ⟨⟨-, hhi⟩, -⟩ := (mem_ranksOf_iff _ a).mp h
    omega

theorem length_rankingOf {sel : Selection} (h : FieldsFit sel) :
    (rankingOf sel).2.length = (fieldSizes sel.cat).1 + (fieldSizes sel.cat).2 := by
  rw [rankingOf, List.length_append, length_ranksOf h.primaryReal, length_ranksOf h.kickersReal, h.primarySize, h.kickersSize]

theorem fieldSizes_le_five (c : Category) : (fieldSizes c).1 + (fieldSizes c).2 ≤ 5 := by
  cases c <;> decide

theorem ranksOf_lt {x y : Mask} (hx : realRanks x = true) (hy : realRanks y = true) (h : x < y) : ranksOf x < ranksOf y := by
  rw [ranksOf_eq_map_indicesDown hx, ranksOf_eq_map_indicesDown hy]
  exact List.map_lt (fun _ _ => Nat.succ_lt_succ) (indicesDown_lt h)

/-- Lists of one length compare whatever is written after them. -/
theorem append_lt_append_of_lt {l l' : List Nat} (s s' : List Nat) (h : l < l') (hlen : l.length = l'.length) :
    l ++ s < l' ++ s' := by
  induction l generalizing l' with
  | nil =>
    rw [List.length_eq_zero_iff.mp hlen.symm] at h
    cases h
  | cons a l ih =>
    cases l' with
    | nil => cases hlen
    | cons a' l' =>
      rw [List.cons_append, List.cons_append, List.cons_lt_cons_iff]
      exact (List.cons_lt_cons_iff.mp h).imp_right fun ⟨heq, hlt⟩ => ⟨heq, ih hlt (Nat.succ.inj hlen)⟩

/-- In one category the ranks compare as `P` does, then as `K` does. -/
theorem ranks_lt_of_fields_lt {s1 s2 : Selection} (h1 : FieldsFit s1) (h2 : FieldsFit s2) (hcat : s1.cat = s2.cat)
    (h : s1.p < s2.p ∨ s1.p = s2.p ∧ s1.k < s2.k) : (rankingOf s1).2 < (rankingOf s2).2 := by
  obtain hlt | ⟨heq, hlt⟩ := h
  · refine append_lt_append_of_lt _ _ (ranksOf_lt h1.primaryReal h2.primaryReal hlt) ?_
    rw [length_ranksOf h1.primaryReal, length_ranksOf h2.primaryReal, h1.primarySize, h2.primarySize, hcat]
  · rw [rankingOf, rankingOf, heq]
    exact List.append_left_lt (ranksOf_lt h1.kickersReal h2.kickersReal hlt)

/-- Strengths rise with values. -/
theorem strength_lt_of_value_lt {s1 s2 : Selection} (h1 : FieldsFit s1) (h2 : FieldsFit s2) (h : s1.value < s2.value) :
    strength s1 < strength s2 := by
  rw [strength, strength, rankingNumber_eq, rankingNumber_eq]
  have hdigits := fiveDigits_lt_sixteen (rank_lt_sixteen s1)
  have hlen : (fiveDigits (rankingOf s1).2).length = (fiveDigits (rankingOf s2).2).length := by
    rw [length_fiveDigits, length_fiveDigits]
  obtain hlt | heq | hgt := Nat.lt_trichotomy s1.cat.code.toNat s2.cat.code.toNat
  · exact withDigits_lt_of_lt hlt hlen hdigits
  · have hcat := (code_inj_iff _ _).mp heq
    rw [Selection.value, Selection.value, hcat, valueOf_lt_iff] at h
    have hranks := ranks_lt_of_fields_lt h1 h2 hcat h
    have hlen1 := length_rankingOf h1
    have hlen2 := length_rankingOf h2
    have hle := fieldSizes_le_five s2.cat
    rw [hcat] at hlen1
    rw [fiveDigits_eq_append (by omega), fiveDigits_eq_append (by omega), withDigits_append, withDigits_append]
    refine withDigits_lt_of_lt ?_ (by rw [hlen1, hlen2]) fun a ha => ?_
    · rw [show (rankingOf s1).1 = (rankingOf s2).1 from hcat]
      exact withDigits_lt_of_list_lt hranks (by omega) (rank_lt_sixteen s1)
    · exact hdigits a (by rw [fiveDigits_eq_append (by omega)]; exact List.mem_append_right _ ha)
  · exact absurd h (Nat.lt_asymm (valueOf_lt_of_code_lt s1.p s1.k s2.p s2.k hgt))

/-- A value names its selection. -/
theorem value_inj {s1 s2 : Selection} (h : s1.value = s2.value) : s1 = s2 := by
  obtain ⟨c1, p1, k1⟩ := s1
  obtain ⟨c2, p2, k2⟩ := s2
  have hcat := congrArg categoryCodeOf h
  have hp := congrArg primaryOf h
  have hk := congrArg kickersOf h
  rw [Selection.value, Selection.value, categoryCodeOf_valueOf, categoryCodeOf_valueOf, code_inj_iff] at hcat
  rw [Selection.value, Selection.value, primaryOf_valueOf, primaryOf_valueOf] at hp
  rw [Selection.value, Selection.value, kickersOf_valueOf, kickersOf_valueOf] at hk
  rw [Selection.mk.injEq]
  exact ⟨hcat, hp, hk⟩

theorem strength_le_of_value_le {s1 s2 : Selection} (h1 : FieldsFit s1) (h2 : FieldsFit s2) (h : s1.value ≤ s2.value) :
    strength s1 ≤ strength s2 := by
  obtain hlt | heq := Nat.lt_or_eq_of_le h
  · exact (strength_lt_of_value_lt h1 h2 hlt).le
  · rw [value_inj (BitVec.eq_of_toNat_eq heq)]

end Sys2Proof.Laws
end

section
/-! SUPPORT. The best five cards (44_poker_hand_classifier.md R205, 00_scope.md R13; log 19): no five cards of a hand are
stronger than what CLASSIFY selects, and five of them are as strong. -/

namespace Sys2Proof.Laws

open Sys2Proof.Machine

/-! Lists of cards in any order -/

theorem cardsOfRank_perm {l l' : List Card} (h : l.Perm l') : cardsOfRank l = cardsOfRank l' :=
  funext fun _ => h.countP_eq _

theorem fiveCardRanking_perm {l l' : List Card} (h : l.Perm l') : fiveCardRanking l = fiveCardRanking l' := by
  have hrank := cardsOfRank_perm h
  have htop : straightTop l = straightTop l' := by rw [straightTop, hrank, straightTop]
  have hsuit : oneSuit l = oneSuit l' := by simp only [oneSuit, h.all_eq]
  have htimes : ranksHeldTimes l = ranksHeldTimes l' := by funext c; rw [ranksHeldTimes, hrank, ranksHeldTimes]
  rw [fiveCardRanking, fiveCardRanking, htop, hsuit, htimes]

/-- The running maximum over a list bounds what it starts with and every element, and no more than it must. -/
theorem foldl_max_bounds {α : Type} (f : α → Nat) (l : List α) (start : Nat) :
    start ≤ l.foldl (fun best x => max best (f x)) start ∧
    (∀ x ∈ l, f x ≤ l.foldl (fun best x => max best (f x)) start) ∧
    ∀ b, start ≤ b → (∀ x ∈ l, f x ≤ b) → l.foldl (fun best x => max best (f x)) start ≤ b := by
  induction l generalizing start with
  | nil => exact ⟨le_rfl, fun _ hx => absurd hx List.not_mem_nil, fun _ hb _ => hb⟩
  | cons a l ih =>
    obtain ⟨hstart, hmem, hleast⟩ := ih (max start (f a))
    rw [List.foldl_cons]
    refine ⟨(le_max_left _ _).trans hstart, fun x hx => ?_, fun b hb hall => ?_⟩
    · obtain rfl | hx := List.mem_cons.mp hx
      · exact (le_max_right _ _).trans hstart
      · exact hmem x hx
    · exact hleast b (max_le hb (hall a List.mem_cons_self)) fun x hx => hall x (List.mem_cons_of_mem a hx)

theorem foldl_max_of_greatest {α : Type} {l : List α} {f : α → Nat} {b : Nat} (hle : ∀ x ∈ l, f x ≤ b)
    (hattained : ∃ x ∈ l, f x = b) : l.foldl (fun best x => max best (f x)) 0 = b := by
  obtain ⟨-, hmem, hleast⟩ := foldl_max_bounds f l 0
  obtain ⟨x, hx, rfl⟩ := hattained
  exact le_antisymm (hleast _ (Nat.zero_le _) hle) (hmem x hx)

/-! Five cards as a hand -/

/-- The lanes of one hand are part of another's as its cards are. -/
theorem subMask_rankLanes_iff (hand part : Word) :
    (∀ q : Suit, SubMask ((rankLanes part).get q) ((rankLanes hand).get q)) ↔ cardsOf part ⊆ cardsOf hand := by
  constructor
  · intro h c hc
    rw [mem_cardsOf_iff_rankLanes] at hc ⊢
    exact ⟨hc.1, h c.suit _ hc.2⟩
  · intro h q j hj
    obtain ⟨i, rfl⟩ : ∃ i, j = i + 1 := by
      cases j with
      | zero => rw [getLsbD_rankLanes] at hj; cases hj
      | succ i => exact ⟨i, rfl⟩
    have hlt := BitVec.lt_of_getLsbD hj
    have hcard : (⟨i + 2, q⟩ : Card) ∈ cardsOf part :=
      (mem_cardsOf_iff_rankLanes part _).mpr ⟨⟨Nat.le_add_left 2 i, Nat.succ_le_of_lt hlt⟩, hj⟩
    exact ((mem_cardsOf_iff_rankLanes hand _).mp (h hcard)).2

/-- Five of a hand's cards, packed, are a well-formed hand of five cards that the hand covers. -/
theorem exists_hand_of_five_cards {hand : Word} (hw : wellFormedHand hand = true) {five : List Card}
    (hsub : five.Sublist (cardsOf hand)) (hlen : five.length = 5) :
    ∃ part, wellFormedHand part = true ∧ cardCount part = 5 ∧ Covers 1 hand part ∧ (cardsOf part).Perm five := by
  have hperm := packedCardsReadBack five ((nodup_cardsOf hand).sublist hsub)
    fun c hc => ((mem_cardsOf_iff hand c).mp (hsub.subset hc)).1
  have hcards : cardCount (pack (maskOfCards five)) = 5 := by rw [← length_cardsOf, hperm.length_eq, hlen]
  refine ⟨_, (wellFormedHand_iff _).mpr ⟨⟨unusedClear_pack _, acesAgree_pack _⟩, .inl hcards⟩, hcards,
    covers_of_rankLanes (acesAgree_of_wellFormed hw) (acesAgree_pack _) ?_, hperm⟩
  exact (subMask_rankLanes_iff _ _).mpr fun c hc => hsub.subset (hperm.mem_iff.mp hc)

/-- The cards of a hand that is covered, in the order of the covering hand's. -/
theorem exists_sublist_of_covers {hand part : Word} (h : Covers 1 hand part) :
    ∃ five, five.Sublist (cardsOf hand) ∧ (cardsOf part).Perm five := by
  have hsub : cardsOf part ⊆ cardsOf hand := (subMask_rankLanes_iff _ _).mp h.rankLanes_subMask
  refine ⟨(cardsOf hand).filter fun c => decide (c ∈ cardsOf part), List.filter_sublist, ?_⟩
  refine (List.perm_ext_iff_of_nodup (nodup_cardsOf part) ((nodup_cardsOf hand).filter _)).mpr fun c => ?_
  rw [List.mem_filter, decide_eq_true_eq]
  exact ⟨fun hc => ⟨hsub hc, hc⟩, And.right⟩

/-- The strength of a hand's best five cards is that of CLASSIFY's selection. -/
theorem bestFive_eq_strength {hand : Word} (hw : wellFormedHand hand = true) :
    bestFive hand = strength (select (matcherNets hand)) := by
  refine foldl_max_of_greatest (fun five hmem => ?_) ?_
  · obtain ⟨hsub, hlen⟩ := List.mem_sublistsLen.mp hmem
    obtain ⟨part, hwPart, hcards, hcovers, hperm⟩ := exists_hand_of_five_cards hw hsub hlen
    rw [← fiveCardRanking_perm hperm, fiveCardRanking_cardsOf hwPart hcards]
    exact strength_le_of_value_le (fieldsFit_select hwPart) (fieldsFit_select hw) (hcovers.value_le hw hwPart)
  · obtain ⟨q, hmakes⟩ := exists_makes_select hw
    obtain ⟨part, q', hcovers, hwPart, hcards, hmakesPart⟩ := fiveMake_of_makes hw hmakes
    obtain ⟨five, hsub, hperm⟩ := exists_sublist_of_covers hcovers
    refine ⟨five, List.mem_sublistsLen.mpr ⟨hsub, ?_⟩, ?_⟩
    · rw [← hperm.length_eq, length_cardsOf, hcards]
    · rw [← fiveCardRanking_perm hperm, fiveCardRanking_cardsOf hwPart hcards]
      have hvalue := BitVec.le_antisymm (hcovers.value_le hw hwPart) (value_le_of_makes hwPart hmakesPart)
      rw [value_inj hvalue, strength]

theorem bestFive_lt_of_classify_lt {hand hand' : Word} (hw : wellFormedHand hand = true)
    (hw' : wellFormedHand hand' = true) (h : classify hand < classify hand') : bestFive hand < bestFive hand' := by
  rw [classify_of_wellFormed hw, classify_of_wellFormed hw'] at h
  rw [bestFive_eq_strength hw, bestFive_eq_strength hw']
  exact strength_lt_of_value_lt (fieldsFit_select hw) (fieldsFit_select hw') h

/-- Settles O27: the best five cards' strength is a function of the value, and a strictly rising one. -/
theorem valuesOrderHandsByBestFiveCards : Obligations.ValuesOrderHandsByBestFiveCards := by
  intro h1 h2 hw1 hw2
  have hlt := bestFive_lt_of_classify_lt hw1 hw2
  have hgt := bestFive_lt_of_classify_lt hw2 hw1
  have heq (hv : classify h1 = classify h2) : bestFive h1 = bestFive h2 := by
    rw [classify_of_wellFormed hw1, classify_of_wellFormed hw2] at hv
    rw [bestFive_eq_strength hw1, bestFive_eq_strength hw2, value_inj hv]
  rw [BitVec.lt_def, ← BitVec.toNat_inj]
  rw [BitVec.lt_def] at hlt hgt
  rw [← BitVec.toNat_inj] at heq
  omega

end Sys2Proof.Laws
end

section
/-! SUPPORT. Nothing stops the block (60_exceptions.md R230, R232): every instruction answers a next state, and what is turned
away is a transaction that its row's decoder gives no instruction for. -/

namespace Sys2Proof.Laws

open Sys2Proof.Machine

/-- No row has an arm that stops: each one's outcome is `.next` of the state it writes. -/
theorem exec_completes (i : Instr) (s : State) : ∃ t, exec i s = .next t := by
  cases i <;> exact ⟨_, rfl⟩

theorem step_of_fetch_error {s : State} {e : DecodeError} (h : s.fetch = .error e) :
    step s = .refused (.undecodable e) := by
  rw [step, h]

/-- A step completes, or is refused for the decoder's reason. -/
theorem step_cases (s : State) :
    (∃ t, step s = .next t) ∨ ∃ e, s.fetch = .error e ∧ step s = .refused (.undecodable e) := by
  cases hfetch : s.fetch with
  | ok next =>
    obtain ⟨i, s'⟩ := next
    exact .inl (step_of_fetch hfetch ▸ exec_completes i s')
  | error e => exact .inr ⟨e, rfl, step_of_fetch_error hfetch⟩

/-- Only the oldest pending transaction can leave a step without an instruction: the held hand is one. -/
theorem exists_undecodable_of_fetch_error {s : State} {e : DecodeError} (h : s.fetch = .error e) :
    ∃ t rest, s.pending = t :: rest ∧ decode t.op t.nbits t.bits = .error e := by
  cases hpending : s.pending with
  | nil => rw [s.fetch_of_nil hpending] at h; cases h
  | cons t rest =>
    rw [s.fetch_of_cons t rest hpending] at h
    refine ⟨t, rest, rfl, ?_⟩
    cases hdecode : decode t.op t.nbits t.bits with
    | ok i => rw [hdecode] at h; cases h
    | error e' => rw [hdecode] at h; cases h; rfl

/-- Settles O9: every instruction completes, so a step that does not is one whose transaction the decoder turned away. -/
theorem nothingTraps : Obligations.NothingTraps := by
  refine ⟨exec_completes, fun s f h => ?_, fun s r h => ?_⟩
  · obtain ⟨t, hnext⟩ | ⟨e, -, hrefused⟩ := step_cases s
    · cases hnext.symm.trans h
    · cases hrefused.symm.trans h
  · obtain ⟨t, hnext⟩ | ⟨e, hfetch, hrefused⟩ := step_cases s
    · cases hnext.symm.trans h
    · obtain ⟨t, rest, hpending, hdecode⟩ := exists_undecodable_of_fetch_error hfetch
      cases hrefused.symm.trans h
      exact ⟨t, rest, e, hpending, hdecode, rfl⟩

/-! What the decoder turns away (log 12) -/

theorem bitsFit_eq_false_iff (op : Op) (nbits bits : Nat) :
    op.bitsFit nbits bits = false ↔ 2 ^ nbits ≤ bits ∨ op ≠ .pack ∧ 2 ^ op.width ≤ bits := by
  simp only [Op.bitsFit, Bool.and_eq_false_iff, Bool.or_eq_false_iff, decide_eq_false_iff_not, not_lt,
    beq_eq_false_iff_ne]

/-- The decoder's three answers, by the width of the carrier and then by the bits. -/
theorem decode_cases (op : Op) (nbits bits : Nat) :
    (op.acceptsWidth nbits = true ∧ op.bitsFit nbits bits = true ∧ decode op nbits bits = .ok (operandsOf op bits)) ∨
    (op.acceptsWidth nbits = true ∧ op.bitsFit nbits bits = false ∧
      decode op nbits bits = .error (.bitsAboveWidth op)) ∨
    (op.acceptsWidth nbits = false ∧ decode op nbits bits = .error (.wrongWidth op nbits)) := by
  unfold decode
  cases op.acceptsWidth nbits with
  | false => simp
  | true => cases op.bitsFit nbits bits <;> simp

theorem decode_eq_wrongWidth_iff (op : Op) (nbits bits : Nat) :
    decode op nbits bits = .error (.wrongWidth op nbits) ↔ op.acceptsWidth nbits = false := by
  obtain ⟨hw, -, hd⟩ | ⟨hw, -, hd⟩ | ⟨hw, hd⟩ := decode_cases op nbits bits <;> simp [hw, hd]

theorem decode_eq_bitsAboveWidth_iff (op : Op) (nbits bits : Nat) :
    decode op nbits bits = .error (.bitsAboveWidth op) ↔
      op.acceptsWidth nbits = true ∧ op.bitsFit nbits bits = false := by
  obtain ⟨hw, hf, hd⟩ | ⟨hw, hf, hd⟩ | ⟨hw, hd⟩ := decode_cases op nbits bits
  · simp [hf, hd]
  · simp [hw, hf, hd]
  · simp [hw, hd]

/-- Settles O3: bits within the row pass the decoder whatever they are, and the decoder's two errors are its two checks. -/
theorem everyOperandValueDecodesAndRuns : Obligations.EveryOperandValueDecodesAndRuns := by
  intro op nbits bits
  refine ⟨fun haccept hbits => ?_, decode_eq_wrongWidth_iff op nbits bits, ?_⟩
  · exact ⟨operandsOf op bits, decode_of_lt_width haccept hbits, exec_completes (operandsOf op bits)⟩
  · rw [decode_eq_bitsAboveWidth_iff, bitsFit_eq_false_iff]

end Sys2Proof.Laws
end

section
/-! SUPPORT. The wrapper under a stream of cycles (70_reset_and_hazards.md R261, R262, R265): a reset edge leaves no valid
entry, and without reset every entry goes up one place per edge, so that an output is what was presented a latency ago. -/

namespace Sys2Proof.Laws

open Sys2Proof.Machine

theorem outValid_of_getLast? {s : State} {last : Stage} (h : s.stages.getLast? = some last) :
    s.outValid = some last.valid :=
  congrArg (Option.map Stage.valid) h

/-- With `rst = 1` the edge of an EVALUATE leaves no valid entry, whatever hand is driven (R28). -/
theorem evaluate_stages_not_valid_of_rst {s : State} (hand : Word) (h : s.rst = true) :
    ∀ e ∈ (s.driveHand hand).clockEdge.sampleOutput.stages, e.valid = false := by
  obtain ⟨-, hclear⟩ | ⟨hrst, -⟩ := (s.driveHand hand).stagesAfterEdge_cases
  · rw [State.sampleOutput_stages, State.clockEdge_stages, hclear]
    exact clearStages_not_valid _ _
  · cases h.symm.trans hrst

/-- Settles O11: the edge clears every entry, the last one too, and adds or drops none. -/
theorem resetEdgeClearsEveryValidBit : Obligations.ResetEdgeClearsEveryValidBit := by
  intro s hand hne hrst
  have hclear := evaluate_stages_not_valid_of_rst hand hrst
  obtain ⟨last, hlast⟩ : ∃ last, (s.driveHand hand).stagesAfterEdge.getLast? = some last :=
    ⟨_, List.getLast?_eq_some_getLast (stagesAfterEdge_ne_nil (s := s.driveHand hand) hne)⟩
  refine ⟨_, exec_evaluate hand s, exec_evaluate_keeps_latency (exec_evaluate hand s), ?_, hclear⟩
  rw [outValid_of_getLast? hlast, hclear last (List.mem_of_getLast? hlast)]

/-! Entries on their way to the output -/

/-- From `s` to `t` every stage entry has gone up `n` places (R28). -/
structure MovedUp (n : Nat) (s t : State) : Prop where
  latency : t.latency = s.latency
  entry : ∀ k, k + n < s.latency → t.stages[k + n]? = s.stages[k]?

theorem MovedUp.refl (s : State) : MovedUp 0 s s := ⟨rfl, fun _ _ => rfl⟩

theorem MovedUp.trans {m n : Nat} {s t u : State} (h : MovedUp m s t) (h' : MovedUp n t u) : MovedUp (m + n) s u := by
  refine ⟨h'.latency.trans h.latency, fun k hk => ?_⟩
  rw [← Nat.add_assoc, h'.entry (k + m) (by rw [h.latency]; omega), h.entry k (by omega)]

/-- The last entry is the one that stood `n` places before it. -/
theorem MovedUp.getLast?_eq {n : Nat} {s t : State} (h : MovedUp n s t) (hn : n < s.latency) :
    t.stages.getLast? = s.stages[s.latency - 1 - n]? := by
  have hindex : t.stages.length - 1 = s.latency - 1 - n + n := by
    have hlength : t.stages.length = s.latency := h.latency
    omega
  rw [List.getLast?_eq_getElem?, hindex, h.entry _ (by omega)]

/-- With `rst = 0` the edge of an EVALUATE takes every entry one place up, whatever hand is driven. -/
theorem evaluate_movedUp {s : State} (hand : Word) (h : s.rst = false) :
    MovedUp 1 s (s.driveHand hand).clockEdge.sampleOutput := by
  refine ⟨exec_evaluate_keeps_latency (exec_evaluate hand s), fun k hk => ?_⟩
  rw [evaluate_stages_of_not_rst hand h, shiftStages_succ _ _ k hk]

/-- What one cycle without reset does: its hand enters `st[0]`, the entries before it go up, and the ports agree. -/
theorem step_cycle {s : State} {valid : Bool} {hand : Word} {rest : List Transaction}
    (h : s.pending = cycle false valid hand :: rest) :
    ∃ t, step s = .next t ∧ t.pending = rest ∧ PortsAgree t ∧ MovedUp 1 s t ∧
      (s.stages ≠ [] → t.stages[0]? = some ⟨valid, evaluateWord hand⟩) := by
  obtain ⟨holdest, -⟩ := stepPerformsTheOldestTransaction
  have hdecode : decode .evaluate 64 hand.toNat = .ok (.evaluate hand) :=
    decodeOfEncodeIsTheInstruction (.evaluate hand) 64 rfl
  obtain ⟨taken, hstep, htaken, -⟩ := holdest s (cycle false valid hand) rest (.evaluate hand) h hdecode
  obtain rfl := htaken rfl
  obtain ⟨hlatency, hentry⟩ :=
    evaluate_movedUp (s := { s with pending := rest, rst := false, inValid := valid, settled := true }) hand rfl
  refine ⟨_, hstep.trans (exec_evaluate hand _), rfl, sampleOutput_portsAgree _, ⟨hlatency, hentry⟩, fun hne => ?_⟩
  exact (congrArg (·[0]?) (evaluate_stages_of_not_rst hand rfl)).trans (shiftStages_head _ _ hne)

theorem run_succ_of_step {s t : State} (n : Nat) (h : step s = .next t) :
    Host.Core.run core (n + 1) s = Host.Core.run core n t := by
  have hcore : core.step s = .next t := h
  simp only [Host.Core.run, hcore]

/-- A stream of cycles without reset runs to its end, one place up for each cycle. -/
theorem run_cycles (later : List Transaction) (cycles : List (Bool × Word)) {s : State}
    (h : s.pending = cycles.map (fun c => cycle false c.1 c.2) ++ later) :
    ∃ t, Host.Core.run core cycles.length s = .next t ∧ t.pending = later ∧ MovedUp cycles.length s t ∧
      (PortsAgree s → PortsAgree t) := by
  induction cycles generalizing s with
  | nil => exact ⟨s, rfl, h, .refl s, id⟩
  | cons c cycles ih =>
    obtain ⟨u, hstep, hpending, hports, hmoved, -⟩ := step_cycle h
    obtain ⟨t, hrun, hlater, hrest, hkeeps⟩ := ih hpending
    refine ⟨t, (run_succ_of_step _ hstep).trans hrun, hlater, ?_, fun _ => hkeeps hports⟩
    rw [List.length_cons, Nat.add_comm]
    exact hmoved.trans hrest

/-- Settles O12: fewer cycles than stages leave at the output an entry that stood in the wrapper before them. -/
theorem outValidStaysLowAfterReset : Obligations.OutValidStaysLowAfterReset := by
  intro s cycles later hclear hfew hpending
  obtain ⟨t, hrun, hlater, hmoved, -⟩ := run_cycles later cycles hpending
  refine ⟨t, hrun, ?_, hlater⟩
  have hindex : s.latency - 1 - cycles.length < s.stages.length := by rw [← State.latency]; omega
  have hlast := (hmoved.getLast?_eq hfew).trans (List.getElem?_eq_getElem hindex)
  rw [outValid_of_getLast? hlast, hclear _ (List.getElem_mem hindex)]

theorem valueO_of_valid_last {s : State} {last : Stage} (h : PortsAgree s) (hlast : s.stages.getLast? = some last)
    (hv : last.valid = true) : s.valueO = last.val := by
  simp only [PortsAgree, hlast] at h
  exact h hv

/-- Settles O13: the hand enters `st[0]` on its own edge, and the edges of the hands behind it take it to the last stage. -/
theorem acceptedHandLeavesAfterLatencyEdges : Obligations.AcceptedHandLeavesAfterLatencyEdges := by
  intro s hand valid behind later hlatency hpending
  obtain ⟨u, hstep, hbehind, hports, hmoved, hfirst⟩ := step_cycle hpending
  obtain ⟨t, hrun, hlater, hrest, hkeeps⟩ := run_cycles later behind hbehind
  have hne : s.stages ≠ [] := by
    rw [← List.length_pos_iff, ← State.latency]
    omega
  have hu : u.latency = behind.length + 1 := hmoved.latency.trans hlatency
  have hlast : t.stages.getLast? = some ⟨valid, evaluateWord hand⟩ := by
    rw [hrest.getLast?_eq (by omega), show u.latency - 1 - behind.length = 0 by omega, hfirst hne]
  refine ⟨t, (run_succ_of_step _ hstep).trans hrun, outValid_of_getLast? hlast, fun hvalid => ?_, hlater⟩
  exact valueO_of_valid_last (hkeeps hports) hlast hvalid

end Sys2Proof.Laws
end

section
/-! SUPPORT. What a consumer and an environment have to watch for (70_reset_and_hazards.md R264, R266, R267): the sentinel
under comparison, a lost ace duplicate, and a sample taken too early. -/

namespace Sys2Proof.Laws

open Sys2Proof.Machine

/-! The sentinel under comparison (R266) -/

theorem evaluateWord_of_inputClass_sentinel {hand : Word} (h : inputClass hand = .sentinel) :
    evaluateWord hand = sentinel := by
  rw [evaluateWord, h]

theorem classify_lt_sentinel {hand : Word} (h : wellFormedHand hand = true) : classify hand < sentinel := by
  obtain ⟨-, -, hbelow, -⟩ := valueFormatOfWellFormedHands hand h
  exact hbelow

theorem compareValues_of_sentinel_left (v : Word) : compareValues sentinel v = none := by
  simp [compareValues, isSentinel]

theorem compareValues_of_sentinel_right (v : Word) : compareValues v sentinel = none := by
  simp [compareValues, isSentinel]

theorem compareValues_of_lt_sentinel {v1 v2 : Word} (h1 : v1 < sentinel) (h2 : v2 < sentinel) :
    compareValues v1 v2 = some (compare v1.toNat v2.toNat) := by
  simp [compareValues, isSentinel, BitVec.ne_of_lt h1, BitVec.ne_of_lt h2]

/-- Settles O33: a word on the sentinel path has the sentinel for its value, which no well-formed hand's value reaches. -/
theorem consumerMustTestTheSentinelFirst : Obligations.ConsumerMustTestTheSentinelFirst := by
  intro hand bad hw hbad
  rw [evaluateWord_of_inputClass_sentinel hbad, evaluateWord_of_wellFormed hw]
  refine ⟨classify_lt_sentinel hw, compareValues_of_sentinel_left _, compareValues_of_sentinel_right _,
    fun _ _ => compareValues_of_sentinel_left _, fun other hother => ?_⟩
  rw [evaluateWord_of_wellFormed hother]
  exact compareValues_of_lt_sentinel (classify_lt_sentinel hw) (classify_lt_sentinel hother)

/-! A lost ace duplicate (R267) -/

/-- The hand with the ace duplicate of lane `q` cleared. -/
def clearDuplicate (hand : Word) (q : Suit) : Word := hand &&& ~~~((1 : Word) <<< (16 * q.val))

theorem getLsbD_clearDuplicate (hand : Word) (q : Suit) {i : Nat} (hi : i < 64) :
    (clearDuplicate hand q).getLsbD i = (hand.getLsbD i && decide (i ≠ 16 * q.val)) := by
  simp [clearDuplicate, ← BitVec.twoPow_eq, hi]

/-- The count of distinct ranks reads the bits of the real ranks alone. -/
theorem distinctRanks_congr {hand hand' : Word}
    (h : ∀ (q : Suit) (j : Nat), j < 13 → hand.getLsbD (16 * q.val + (j + 1)) = hand'.getLsbD (16 * q.val + (j + 1))) :
    (matcherNets hand).n = (matcherNets hand').n := by
  apply BitVec.eq_of_toNat_eq
  rw [distinctRanks_eq_popcount, distinctRanks_eq_popcount]
  refine (popcount_presentRanks hand).trans (Eq.trans ?_ (popcount_presentRanks hand').symm)
  refine List.countP_congr fun j hj => ?_
  simp only [h _ j (List.mem_range.mp hj)]

theorem distinctRanks_clearDuplicate (hand : Word) (q : Suit) :
    (matcherNets (clearDuplicate hand q)).n = (matcherNets hand).n := by
  refine distinctRanks_congr fun q' j hj => ?_
  rw [getLsbD_clearDuplicate hand q (by omega), decide_eq_true (by omega), Bool.and_true]

/-- The Ace is still there, and its duplicate is not. -/
theorem not_wellFormed_clearDuplicate {hand : Word} {q : Suit} (hace : hand.getLsbD (16 * q.val + 13) = true) :
    wellFormedHand (clearDuplicate hand q) = false := by
  rw [← Bool.not_eq_true]
  intro hw
  have hagree := (acesAgree_iff _).mp (acesAgree_of_wellFormed hw) q
  rw [getLsbD_clearDuplicate hand q (by omega), getLsbD_clearDuplicate hand q (by omega), hace] at hagree
  simp at hagree

/-- Settles O34: the hand keeps its two to seven ranks, and one lane is no longer well-formed. -/
theorem missingAceDuplicateIsNotDiagnosed : Obligations.MissingAceDuplicateIsNotDiagnosed := by
  intro hand q hw hace
  change inputClass (clearDuplicate hand q) = .unspecified
  have hs : sentinelCondition (matcherNets (clearDuplicate hand q)).n = false := by
    rw [distinctRanks_clearDuplicate]
    exact sentinelCondition_of_wellFormed hw
  simp [inputClass, hs, not_wellFormed_clearDuplicate hace]

/-! A sample taken too early (R264) -/

/-- A sample of the combinational block before the hand has settled is the next free value (I8). -/
theorem sampleOutput_of_unsettled {s : State} (hst : s.stages = []) (hset : s.settled = false) :
    s.sampleOutput = { s with valueO := Config.freeWord s.draws, draws := s.draws + 1 } := by
  have hword : s.sampledWord = (Config.freeWord s.draws, true) := by simp [State.sampledWord, hst, hset]
  simp [State.sampleOutput, hword]

/-- Settles O18: the nets follow the hand at once, there is no stage to clock, and the sample is too early. -/
theorem evaluateUnsettledGivesAnyValue : Obligations.EvaluateUnsettledGivesAnyValue := by
  intro s hand hst hset
  have hedge : (s.driveHand hand).clockEdge = s.driveHand hand := clockEdge_of_nil hst
  have hsample := sampleOutput_of_unsettled (s := s.driveHand hand) hst hset
  exact ⟨_, by rw [exec_evaluate, hedge, hsample], rfl, rfl, rfl⟩

end Sys2Proof.Laws
end

section
/-! SUPPORT. The codec read from the word (opcode_table.json, 30_encoding.md R60, R61, R70): the fields of a row cover its
bits without a gap, so putting them together again gives the bits of the row back. -/

namespace Sys2Proof.Laws

/-! The fields of an operand cover it -/

/-- Cutting a 56-bit operand into its four lanes loses none of its bits (log 11). -/
theorem packLanes_unpackLanes (v : BitVec 56) : packLanes (unpackLanes v) = v :=
  calc packLanes (unpackLanes v)
      = v.extractLsb' 42 14 ++ v.extractLsb' 28 14 ++ v.extractLsb' 14 14 ++ v.extractLsb' 0 14 := rfl
    _ = v.extractLsb' 28 28 ++ v.extractLsb' 14 14 ++ v.extractLsb' 0 14 := by
        rw [BitVec.extractLsb'_append_extractLsb'_eq_extractLsb' (start₂ := 42) rfl]
    _ = v.extractLsb' 14 42 ++ v.extractLsb' 0 14 := by
        rw [BitVec.extractLsb'_append_extractLsb'_eq_extractLsb' (start₂ := 28) rfl]
    _ = v := BitVec.extractLsb'_append_extractLsb'

/-- A category code, `P` and `K`, cut out of a 32-bit operand, are all of its bits. -/
theorem append_composeFields (v : BitVec 32) :
    v.extractLsb' 28 4 ++ v.extractLsb' 14 14 ++ v.extractLsb' 0 14 = v :=
  calc v.extractLsb' 28 4 ++ v.extractLsb' 14 14 ++ v.extractLsb' 0 14
      = v.extractLsb' 14 18 ++ v.extractLsb' 0 14 := by
        rw [BitVec.extractLsb'_append_extractLsb'_eq_extractLsb' (start₂ := 28) rfl]
    _ = v := BitVec.extractLsb'_append_extractLsb'

/-! The word of a row -/

/-- What the fields of a row encode is the part of the word that lies within the row. -/
theorem encode_operandsOf (op : Op) (bits : Nat) : encode (operandsOf op bits) = bits % 2 ^ op.width := by
  cases op with
  | evaluate | pack | bpmLanes | bpmDistinct | bpmStraight | bpmStdetect | reHibit | ctTag =>
    exact BitVec.toNat_ofNat ..
  | bpmPresence | bpmQuads | bpmSuitcount | bpmSfdetect | bpmTally =>
    exact (congrArg BitVec.toNat (packLanes_unpackLanes _)).trans (BitVec.toNat_ofNat ..)
  | reTopk =>
    exact (congrArg BitVec.toNat (BitVec.extractLsb'_append_extractLsb' (w := 14) (len := 3))).trans
      (BitVec.toNat_ofNat ..)
  | rePayload =>
    exact (congrArg BitVec.toNat (BitVec.extractLsb'_append_extractLsb' (w := 14) (len := 14))).trans
      (BitVec.toNat_ofNat ..)
  | ctCompose =>
    exact (congrArg BitVec.toNat (append_composeFields _)).trans (BitVec.toNat_ofNat ..)

/-- Bits that pass the decoder lie within the row, but for PACK, which leaves the bits above it unread (D15). -/
theorem lt_two_pow_width_of_bitsFit {op : Op} {nbits bits : Nat} (hop : op ≠ .pack)
    (h : op.bitsFit nbits bits = true) : bits < 2 ^ op.width := by
  simp only [Op.bitsFit, Bool.and_eq_true, Bool.or_eq_true, decide_eq_true_eq, beq_iff_eq] at h
  exact h.2.resolve_left hop

/-- Settles O2: the decoder's instruction holds the row's fields, and they encode the word within the row. -/
theorem encodeOfDecodeIsTheWord : Obligations.EncodeOfDecodeIsTheWord := by
  intro op nbits bits i h
  refine ⟨decode_ok_op h, ?_⟩
  obtain ⟨-, hfit, hd⟩ | ⟨-, -, hd⟩ | ⟨-, hd⟩ := decode_cases op nbits bits
  · cases hd.symm.trans h
    rw [encode_operandsOf]
    split_ifs with hop
    · rw [hop, Op.width]
    · exact Nat.mod_eq_of_lt (lt_two_pow_width_of_bitsFit hop hfit)
  · cases hd.symm.trans h
  · cases hd.symm.trans h

/-! Words written out -/

/-- A word that is an instruction's encoding decodes to the instruction, in every carrier its row accepts. -/
theorem decode_of_encode_eq (i : Instr) {nbits bits : Nat} (haccept : i.op.acceptsWidth nbits = true)
    (hbits : encode i = bits) : decode i.op nbits bits = .ok i :=
  hbits ▸ decodeOfEncodeIsTheInstruction i nbits haccept

/-- Settles O4: each word is the encoding of the instruction it stands for. -/
theorem writtenOutWordsDecode : Obligations.WrittenOutWordsDecode :=
  ⟨decode_of_encode_eq (.evaluate 0x0008_1004_0102_2011) rfl rfl,
    decode_of_encode_eq (.pack 0x0022008103008) rfl rfl,
    decode_of_encode_eq (.bpmQuads ⟨0x2100, 0x1100, 0x0900, 0x0100⟩) rfl rfl,
    decode_of_encode_eq (.reTopk 0x2A54 3) rfl rfl,
    decode_of_encode_eq (.ctCompose 7 0x0100 0x2000) rfl rfl⟩

end Sys2Proof.Laws
end
